-- ==== Sys2Proof/Word.lean ====
section
/-! DEFINITION. The word types of the machine: 8-bit registers and data bytes, 16-bit instruction words
and pointers (spec/00_scope.md R9). -/

namespace Sys2Proof

/-- A general register or a byte of data space: 8 bits (R9). -/
abbrev Byte := BitVec 8

/-- An instruction word, a pointer pair or a product: 16 bits (R9). -/
abbrev Word := BitVec 16

/-- A register number, R0 to R31 (R21, R85). -/
abbrev Reg := Fin 32

end Sys2Proof
end

