-- ==== Sys2Proof/Syntax.lean ====
section
/-! DEFINITION. The instructions: one constructor per row of spec/opcode_table.json, canonical rows and
alias rows both (30_encoding.md R90, R92), with the operands the rows name. -/

namespace Sys2Proof

/-- A flag of SREG, named by an operand `s` (10_state.md R26, R27). -/
inductive Flag where
  | c | z | n | v | s | h | t | i
  deriving DecidableEq, Repr

/-- One constructor per row of the opcode table. `d` and `r` are register numbers, `K` a constant, `k` a
signed word offset, `q` a displacement, `A` an I/O location, `f` a flag (operand `s`, 00_scope.md R14). -/
inductive Instr where
  -- arithmetic and logic, 40_arith_logic.md
  | and (d r : Reg)
  | inc (d : Reg)
  | neg (d : Reg)
  | andi (d : Reg) (K : Byte)
  | or (d r : Reg)
  | ori (d : Reg) (K : Byte)
  | eor (d r : Reg)
  | com (d : Reg)
  | dec (d : Reg)
  | des (K : BitVec 4)
  -- other spellings of words of this family (R119, R120, R122, R123, R124)
  | sbr (d : Reg) (K : Byte)
  | cbr (d : Reg) (K : Byte)
  | tst (d : Reg)
  | clr (d : Reg)
  | ser (d : Reg)
  -- multiply, 41_multiply.md
  | fmulsu (d r : Reg)
  | mul (d r : Reg)
  | muls (d r : Reg)
  | mulsu (d r : Reg)
  | fmul (d r : Reg)
  | fmuls (d r : Reg)
  -- branch, 42_branch.md
  | rjmp (k : BitVec 12)
  | ijmp
  | brbs (f : Flag) (k : BitVec 7)
  | brbc (f : Flag) (k : BitVec 7)
  -- other spellings of BRBS and BRBC (R164 to R173)
  | breq (k : BitVec 7)
  | brne (k : BitVec 7)
  | brcs (k : BitVec 7)
  | brlo (k : BitVec 7)
  | brcc (k : BitVec 7)
  | brsh (k : BitVec 7)
  | brmi (k : BitVec 7)
  | brpl (k : BitVec 7)
  | brlt (k : BitVec 7)
  | brge (k : BitVec 7)
  -- data transfer, 43_data_transfer.md
  | ldX (d : Reg)
  | ldXInc (d : Reg)
  | ldDecX (d : Reg)
  | stZInc (r : Reg)
  | stDecZ (r : Reg)
  | stdZ (q : BitVec 6) (r : Reg)
  | elpm
  | elpmZ (d : Reg)
  | elpmZInc (d : Reg)
  | lpmZInc (d : Reg)
  | spm
  | spmZInc
  | ioIn (d : Reg) (A : BitVec 6)
  | ioOut (A : BitVec 6) (r : Reg)
  | push (r : Reg)
  | pop (d : Reg)
  | xch (d : Reg)
  | las (d : Reg)
  | lac (d : Reg)
  | lat (d : Reg)
  -- another spelling of STD Z+0 (R188)
  | stZ (r : Reg)
  -- shift, bit and flag, 44_shift_bit.md
  | asr (d : Reg)
  | lsr (d : Reg)
  | bset (f : Flag)
  | bclr (f : Flag)
  -- other spellings of ADD Rd,Rd, BSET and BCLR (R221, R225, R226, R229 to R236)
  | lsl (d : Reg)
  | seh
  | clh
  | sec
  | sez
  | sen
  | sev
  | ses
  | setT
  | sei
  | clc
  -- MCU control, 45_mcu_control.md
  | nop
  | brk
  | sleep
  | wdr
  -- supplement, 46_supplement.md
  | add (d r : Reg)
  | adc (d r : Reg)
  | sub (d r : Reg)
  | sbc (d r : Reg)
  | cpi (d : Reg) (K : Byte)
  | ldi (d : Reg) (K : Byte)
  | mov (d r : Reg)
  | movw (d r : Reg)
  deriving DecidableEq, Repr

end Sys2Proof
end

