-- ==== Sys2Proof/WellFormed.lean ====
section
/-! DEFINITION. Which instructions the spec's operand ranges admit (the operand lines of the rules, and
30_encoding.md R86, R88). A decoder produces well-formed instructions only. -/

namespace Sys2Proof

/-- R16 to R31: the four-bit register fields of `Imm8` and `Mul4` (R88). -/
def Reg.isHigh (d : Reg) : Bool := 16 ≤ d.val

/-- R16 to R23: the three-bit register fields of `Mul3` (R86). -/
def Reg.isMul3 (d : Reg) : Bool := 16 ≤ d.val && d.val ≤ 23

/-- An even register: the base of a MOVW pair (R257). -/
def Reg.isEven (d : Reg) : Bool := d.val % 2 == 0

/-- The operand ranges of every row. Ranges that the field types already give (0 to 31, 0 to 255, the
signed offsets, 0 to 63, 0 to 7, 0 to 15) need no check. -/
def Instr.WellFormed : Instr → Bool
  | .and _ _ => true
  | .inc _ => true
  | .neg _ => true
  | .andi d _ => d.isHigh
  | .or _ _ => true
  | .ori d _ => d.isHigh
  | .eor _ _ => true
  | .com _ => true
  | .dec _ => true
  | .des _ => true
  | .sbr d _ => d.isHigh
  | .cbr d _ => d.isHigh
  | .tst _ => true
  | .clr _ => true
  | .ser d => d.isHigh
  | .fmulsu d r => d.isMul3 && r.isMul3
  | .mul _ _ => true
  | .muls d r => d.isHigh && r.isHigh
  | .mulsu d r => d.isMul3 && r.isMul3
  | .fmul d r => d.isMul3 && r.isMul3
  | .fmuls d r => d.isMul3 && r.isMul3
  | .rjmp _ => true
  | .ijmp => true
  | .brbs _ _ => true
  | .brbc _ _ => true
  | .breq _ => true
  | .brne _ => true
  | .brcs _ => true
  | .brlo _ => true
  | .brcc _ => true
  | .brsh _ => true
  | .brmi _ => true
  | .brpl _ => true
  | .brlt _ => true
  | .brge _ => true
  | .ldX _ => true
  | .ldXInc _ => true
  | .ldDecX _ => true
  | .stZInc _ => true
  | .stDecZ _ => true
  | .stdZ _ _ => true
  | .elpm => true
  | .elpmZ _ => true
  | .elpmZInc _ => true
  | .lpmZInc _ => true
  | .spm => true
  | .spmZInc => true
  | .ioIn _ _ => true
  | .ioOut _ _ => true
  | .push _ => true
  | .pop _ => true
  | .xch _ => true
  | .las _ => true
  | .lac _ => true
  | .lat _ => true
  | .stZ _ => true
  | .asr _ => true
  | .lsr _ => true
  | .bset _ => true
  | .bclr _ => true
  | .lsl _ => true
  | .seh => true
  | .clh => true
  | .sec => true
  | .sez => true
  | .sen => true
  | .sev => true
  | .ses => true
  | .setT => true
  | .sei => true
  | .clc => true
  | .nop => true
  | .brk => true
  | .sleep => true
  | .wdr => true
  | .add _ _ => true
  | .adc _ _ => true
  | .sub _ _ => true
  | .sbc _ _ => true
  | .cpi d _ => d.isHigh
  | .ldi d _ => d.isHigh
  | .mov _ _ => true
  | .movw d r => d.isEven && r.isEven

end Sys2Proof
end

