-- ==== Sys2Proof/Decode.lean ====
section
/-! DEFINITION. The decoder, total on every 16-bit word, and the encoder (30_encoding.md). The table of rows
is the canonical part of spec/opcode_table.json: a word that matches no row is rejected by name (R91). -/

namespace Sys2Proof

-- Fields of a word (R82, R83, R85 to R88)

/-- A five-bit register field holds the register number (R85). -/
def regOfField5 (f : BitVec 5) : Reg := ⟨f.toNat, f.isLt⟩

/-- A four-bit register field means R(16 + field) (R88). -/
def regOfField4 (f : BitVec 4) : Reg := ⟨16 + f.toNat, by have := f.isLt; omega⟩

/-- A three-bit register field means R(16 + field) (R86). -/
def regOfField3 (f : BitVec 3) : Reg := ⟨16 + f.toNat, by have := f.isLt; omega⟩

/-- A MOVW field means the pair based at R(2 x field) (R88). -/
def regOfPairField (f : BitVec 4) : Reg := ⟨2 * f.toNat, by have := f.isLt; omega⟩

/-- Bits 8:4: the destination (or only) register of `RdRr5`, `Rd5`, `LdSt`, `Disp6` and `Io`. -/
def fieldD5 (w : Word) : Reg := regOfField5 (w.extractLsb' 4 5)

/-- Bit 9 then bits 3:0: the source register of `RdRr5`. -/
def fieldR5 (w : Word) : Reg := regOfField5 (w.extractLsb' 9 1 ++ w.extractLsb' 0 4)

/-- Bits 7:4: the register of `Imm8` and the first of `Mul4`. -/
def fieldD4 (w : Word) : Reg := regOfField4 (w.extractLsb' 4 4)

/-- Bits 3:0: the second register of `Mul4`. -/
def fieldR4 (w : Word) : Reg := regOfField4 (w.extractLsb' 0 4)

/-- Bits 6:4: the first register of `Mul3`. -/
def fieldD3 (w : Word) : Reg := regOfField3 (w.extractLsb' 4 3)

/-- Bits 2:0: the second register of `Mul3`. -/
def fieldR3 (w : Word) : Reg := regOfField3 (w.extractLsb' 0 3)

/-- Bits 7:4: the destination pair of `Movw`. -/
def fieldDPair (w : Word) : Reg := regOfPairField (w.extractLsb' 4 4)

/-- Bits 3:0: the source pair of `Movw`. -/
def fieldRPair (w : Word) : Reg := regOfPairField (w.extractLsb' 0 4)

/-- Bits 11:8 then bits 3:0: the constant of `Imm8`. -/
def fieldK8 (w : Word) : Byte := w.extractLsb' 8 4 ++ w.extractLsb' 0 4

/-- Bits 11:0: the offset of `Rel12`. -/
def fieldK12 (w : Word) : BitVec 12 := w.extractLsb' 0 12

/-- Bits 9:3: the offset of `Br7`. -/
def fieldK7 (w : Word) : BitVec 7 := w.extractLsb' 3 7

/-- Bit 13, bits 11:10, bits 2:0: the displacement of `Disp6` (R87). -/
def fieldQ6 (w : Word) : BitVec 6 := w.extractLsb' 13 1 ++ w.extractLsb' 10 2 ++ w.extractLsb' 0 3

/-- Bits 10:9 then bits 3:0: the I/O location of `Io`. -/
def fieldA6 (w : Word) : BitVec 6 := w.extractLsb' 9 2 ++ w.extractLsb' 0 4

/-- Bits 7:4: the round number of `Des`. -/
def fieldRound (w : Word) : BitVec 4 := w.extractLsb' 4 4

/-- The flag with a given number (10_state.md R27). -/
def flagOfField (f : BitVec 3) : Flag :=
  match f with
  | 0 => .c
  | 1 => .z
  | 2 => .n
  | 3 => .v
  | 4 => .s
  | 5 => .h
  | 6 => .t
  | 7 => .i

/-- Bits 2:0: the flag number of `Br7`. -/
def fieldFlagLow (w : Word) : Flag := flagOfField (w.extractLsb' 0 3)

/-- Bits 6:4: the flag number of `Sflag`. -/
def fieldFlagHigh (w : Word) : Flag := flagOfField (w.extractLsb' 4 3)

-- The opcode map (R82, R83, R89)

/-- A canonical row of the opcode table: a word `w` matches when `w & mask = pat` (R90). -/
structure Row where
  mask  : Word
  pat   : Word
  build : Word → Instr

/-- Format `RdRr5`, R82, R83. -/
def rowsRdRr5 : List Row := [
  ⟨0xFC00, 0x0800, fun w => .sbc (fieldD5 w) (fieldR5 w)⟩,
  ⟨0xFC00, 0x0C00, fun w => .add (fieldD5 w) (fieldR5 w)⟩,
  ⟨0xFC00, 0x1800, fun w => .sub (fieldD5 w) (fieldR5 w)⟩,
  ⟨0xFC00, 0x1C00, fun w => .adc (fieldD5 w) (fieldR5 w)⟩,
  ⟨0xFC00, 0x2000, fun w => .and (fieldD5 w) (fieldR5 w)⟩,
  ⟨0xFC00, 0x2400, fun w => .eor (fieldD5 w) (fieldR5 w)⟩,
  ⟨0xFC00, 0x2800, fun w => .or (fieldD5 w) (fieldR5 w)⟩,
  ⟨0xFC00, 0x2C00, fun w => .mov (fieldD5 w) (fieldR5 w)⟩,
  ⟨0xFC00, 0x9C00, fun w => .mul (fieldD5 w) (fieldR5 w)⟩]

/-- Formats `Mul3`, `Mul4` and `Movw`, R82, R83. -/
def rowsMul : List Row := [
  ⟨0xFF00, 0x0100, fun w => .movw (fieldDPair w) (fieldRPair w)⟩,
  ⟨0xFF00, 0x0200, fun w => .muls (fieldD4 w) (fieldR4 w)⟩,
  ⟨0xFF88, 0x0300, fun w => .mulsu (fieldD3 w) (fieldR3 w)⟩,
  ⟨0xFF88, 0x0308, fun w => .fmul (fieldD3 w) (fieldR3 w)⟩,
  ⟨0xFF88, 0x0380, fun w => .fmuls (fieldD3 w) (fieldR3 w)⟩,
  ⟨0xFF88, 0x0388, fun w => .fmulsu (fieldD3 w) (fieldR3 w)⟩]

/-- Format `Imm8`, R83. -/
def rowsImm8 : List Row := [
  ⟨0xF000, 0x3000, fun w => .cpi (fieldD4 w) (fieldK8 w)⟩,
  ⟨0xF000, 0x6000, fun w => .ori (fieldD4 w) (fieldK8 w)⟩,
  ⟨0xF000, 0x7000, fun w => .andi (fieldD4 w) (fieldK8 w)⟩,
  ⟨0xF000, 0xE000, fun w => .ldi (fieldD4 w) (fieldK8 w)⟩]

/-- Format `Rd5`, R82, R83. -/
def rowsRd5 : List Row := [
  ⟨0xFE0F, 0x9400, fun w => .com (fieldD5 w)⟩,
  ⟨0xFE0F, 0x9401, fun w => .neg (fieldD5 w)⟩,
  ⟨0xFE0F, 0x9403, fun w => .inc (fieldD5 w)⟩,
  ⟨0xFE0F, 0x9405, fun w => .asr (fieldD5 w)⟩,
  ⟨0xFE0F, 0x9406, fun w => .lsr (fieldD5 w)⟩,
  ⟨0xFE0F, 0x940A, fun w => .dec (fieldD5 w)⟩]

/-- Format `LdSt`, loads: bit 9 is 0, R82, R83. -/
def rowsLoad : List Row := [
  ⟨0xFE0F, 0x9005, fun w => .lpmZInc (fieldD5 w)⟩,
  ⟨0xFE0F, 0x9006, fun w => .elpmZ (fieldD5 w)⟩,
  ⟨0xFE0F, 0x9007, fun w => .elpmZInc (fieldD5 w)⟩,
  ⟨0xFE0F, 0x900C, fun w => .ldX (fieldD5 w)⟩,
  ⟨0xFE0F, 0x900D, fun w => .ldXInc (fieldD5 w)⟩,
  ⟨0xFE0F, 0x900E, fun w => .ldDecX (fieldD5 w)⟩,
  ⟨0xFE0F, 0x900F, fun w => .pop (fieldD5 w)⟩]

/-- Formats `LdSt`, stores, bit 9 is 1, and `Disp6`, R82, R83. -/
def rowsStore : List Row := [
  ⟨0xD208, 0x8200, fun w => .stdZ (fieldQ6 w) (fieldD5 w)⟩,
  ⟨0xFE0F, 0x9201, fun w => .stZInc (fieldD5 w)⟩,
  ⟨0xFE0F, 0x9202, fun w => .stDecZ (fieldD5 w)⟩,
  ⟨0xFE0F, 0x9204, fun w => .xch (fieldD5 w)⟩,
  ⟨0xFE0F, 0x9205, fun w => .las (fieldD5 w)⟩,
  ⟨0xFE0F, 0x9206, fun w => .lac (fieldD5 w)⟩,
  ⟨0xFE0F, 0x9207, fun w => .lat (fieldD5 w)⟩,
  ⟨0xFE0F, 0x920F, fun w => .push (fieldD5 w)⟩]

/-- Formats `Rel12`, `Br7`, `Sflag`, `Io` and `Des`, R83. -/
def rowsOther : List Row := [
  ⟨0xF000, 0xC000, fun w => .rjmp (fieldK12 w)⟩,
  ⟨0xFC00, 0xF000, fun w => .brbs (fieldFlagLow w) (fieldK7 w)⟩,
  ⟨0xFC00, 0xF400, fun w => .brbc (fieldFlagLow w) (fieldK7 w)⟩,
  ⟨0xFF8F, 0x9408, fun w => .bset (fieldFlagHigh w)⟩,
  ⟨0xFF8F, 0x9488, fun w => .bclr (fieldFlagHigh w)⟩,
  ⟨0xF800, 0xB000, fun w => .ioIn (fieldD5 w) (fieldA6 w)⟩,
  ⟨0xF800, 0xB800, fun w => .ioOut (fieldA6 w) (fieldD5 w)⟩,
  ⟨0xFF0F, 0x940B, fun w => .des (fieldRound w)⟩]

/-- Format `Fixed`, R83. -/
def rowsFixed : List Row := [
  ⟨0xFFFF, 0x0000, fun _ => .nop⟩,
  ⟨0xFFFF, 0x9409, fun _ => .ijmp⟩,
  ⟨0xFFFF, 0x9588, fun _ => .sleep⟩,
  ⟨0xFFFF, 0x9598, fun _ => .brk⟩,
  ⟨0xFFFF, 0x95A8, fun _ => .wdr⟩,
  ⟨0xFFFF, 0x95D8, fun _ => .elpm⟩,
  ⟨0xFFFF, 0x95E8, fun _ => .spm⟩,
  ⟨0xFFFF, 0x95F8, fun _ => .spmZInc⟩]

/-- The 56 canonical rows of the opcode table (R90). -/
def opcodeRows : List Row :=
  rowsRdRr5 ++ rowsMul ++ rowsImm8 ++ rowsRd5 ++ rowsLoad ++ rowsStore ++ rowsOther ++ rowsFixed

/-- A word matches a row when its fixed bits are the row's (R90). -/
def Row.admits (row : Row) (w : Word) : Bool := w &&& row.mask == row.pat

/-- Two rows share no word: some bit that both fix has different values in them (R89). -/
def Row.disjoint (a b : Row) : Bool := (a.mask &&& b.mask) &&& (a.pat ^^^ b.pat) != 0

/-- Why the decoder rejects a word. -/
inductive DecodeError where
  /-- The word matches no canonical row: an encoding of no instruction, or of a tier-M instruction (R91, R262).
  Safe: nothing is claimed of such a word. -/
  | unknownWord
  deriving DecidableEq, Repr

/-- Decoding one word: the canonical instruction of the row it matches, or a rejection by name (R91).
The rows share no word, so their order does not matter (R89). -/
def decode (w : Word) : Except DecodeError Instr :=
  match opcodeRows.find? (fun row => row.admits w) with
  | some row => .ok (row.build w)
  | none => .error .unknownWord

-- Which instruction the decoder produces for the other spellings (R92)

/-- The instruction a decoder produces for the words of `i`: `i` itself for the 56 canonical rows, the
row named by `alias_of` for the 27 others (R90, R92). -/
def Instr.canonical : Instr → Instr
  | .sbr d K => .ori d K
  | .cbr d K => .andi d (~~~K)
  | .tst d => .and d d
  | .clr d => .eor d d
  | .ser d => .ldi d 0xFF
  | .breq k => .brbs .z k
  | .brne k => .brbc .z k
  | .brcs k => .brbs .c k
  | .brlo k => .brbs .c k
  | .brcc k => .brbc .c k
  | .brsh k => .brbc .c k
  | .brmi k => .brbs .n k
  | .brpl k => .brbc .n k
  | .brlt k => .brbs .s k
  | .brge k => .brbc .s k
  | .stZ r => .stdZ 0 r
  | .lsl d => .add d d
  | .seh => .bset .h
  | .clh => .bclr .h
  | .sec => .bset .c
  | .sez => .bset .z
  | .sen => .bset .n
  | .sev => .bset .v
  | .ses => .bset .s
  | .setT => .bset .t
  | .sei => .bset .i
  | .clc => .bclr .c
  | .and d r => .and d r
  | .inc d => .inc d
  | .neg d => .neg d
  | .andi d K => .andi d K
  | .or d r => .or d r
  | .ori d K => .ori d K
  | .eor d r => .eor d r
  | .com d => .com d
  | .dec d => .dec d
  | .des K => .des K
  | .fmulsu d r => .fmulsu d r
  | .mul d r => .mul d r
  | .muls d r => .muls d r
  | .mulsu d r => .mulsu d r
  | .fmul d r => .fmul d r
  | .fmuls d r => .fmuls d r
  | .rjmp k => .rjmp k
  | .ijmp => .ijmp
  | .brbs f k => .brbs f k
  | .brbc f k => .brbc f k
  | .ldX d => .ldX d
  | .ldXInc d => .ldXInc d
  | .ldDecX d => .ldDecX d
  | .stZInc r => .stZInc r
  | .stDecZ r => .stDecZ r
  | .stdZ q r => .stdZ q r
  | .elpm => .elpm
  | .elpmZ d => .elpmZ d
  | .elpmZInc d => .elpmZInc d
  | .lpmZInc d => .lpmZInc d
  | .spm => .spm
  | .spmZInc => .spmZInc
  | .ioIn d A => .ioIn d A
  | .ioOut A r => .ioOut A r
  | .push r => .push r
  | .pop d => .pop d
  | .xch d => .xch d
  | .las d => .las d
  | .lac d => .lac d
  | .lat d => .lat d
  | .asr d => .asr d
  | .lsr d => .lsr d
  | .bset f => .bset f
  | .bclr f => .bclr f
  | .nop => .nop
  | .brk => .brk
  | .sleep => .sleep
  | .wdr => .wdr
  | .add d r => .add d r
  | .adc d r => .adc d r
  | .sub d r => .sub d r
  | .sbc d r => .sbc d r
  | .cpi d K => .cpi d K
  | .ldi d K => .ldi d K
  | .mov d r => .mov d r
  | .movw d r => .movw d r

-- The encoder

/-- The number of a flag (10_state.md R27). -/
def Flag.index : Flag → BitVec 3
  | .c => 0
  | .z => 1
  | .n => 2
  | .v => 3
  | .s => 4
  | .h => 5
  | .t => 6
  | .i => 7

/-- The five-bit field of a register (R85). -/
def Reg.field5 (d : Reg) : BitVec 5 := BitVec.ofNat 5 d.val

/-- The four-bit field of R16 to R31 (R88). -/
def Reg.field4 (d : Reg) : BitVec 4 := BitVec.ofNat 4 (d.val - 16)

/-- The three-bit field of R16 to R23 (R86). -/
def Reg.field3 (d : Reg) : BitVec 3 := BitVec.ofNat 3 (d.val - 16)

/-- The four-bit field of an even register (R88). -/
def Reg.pairField (d : Reg) : BitVec 4 := BitVec.ofNat 4 (d.val / 2)

/-- `oooo oord dddd rrrr` (R82). -/
def encRdRr5 (o : BitVec 6) (d r : Reg) : Word :=
  o ++ r.field5.extractLsb' 4 1 ++ d.field5 ++ r.field5.extractLsb' 0 4

/-- `1001 010d dddd oooo` (R82). -/
def encRd5 (d : Reg) (o : BitVec 4) : Word := 0b1001010#7 ++ d.field5 ++ o

/-- `0000 0011 fddd grrr` (R82). -/
def encMul3 (f g : BitVec 1) (d r : Reg) : Word := 0b00000011#8 ++ f ++ d.field3 ++ g ++ r.field3

/-- `oooo KKKK dddd KKKK` (R83). -/
def encImm8 (o : BitVec 4) (d : Reg) (K : Byte) : Word :=
  o ++ K.extractLsb' 4 4 ++ d.field4 ++ K.extractLsb' 0 4

/-- `1001 00sd dddd oooo` (R82): `s` is 0 for a load and 1 for a store. -/
def encLdSt (s : BitVec 1) (d : Reg) (o : BitVec 4) : Word := 0b100100#6 ++ s ++ d.field5 ++ o

/-- `10q0 qq1r rrrr 0qqq` (R82). -/
def encStdZ (q : BitVec 6) (r : Reg) : Word :=
  0b10#2 ++ q.extractLsb' 5 1 ++ 0b0#1 ++ q.extractLsb' 3 2 ++ 0b1#1 ++ r.field5 ++ 0b0#1 ++ q.extractLsb' 0 3

/-- `1111 0bkk kkkk ksss` (R83). -/
def encBr7 (b : BitVec 1) (k : BitVec 7) (s : BitVec 3) : Word := 0b11110#5 ++ b ++ k ++ s

/-- `1001 0100 csss 1000` (R83). -/
def encSflag (c : BitVec 1) (s : BitVec 3) : Word := 0b10010100#8 ++ c ++ s ++ 0b1000#4

/-- `1011 sAAd dddd AAAA` (R83). -/
def encIo (s : BitVec 1) (A : BitVec 6) (d : Reg) : Word :=
  0b1011#4 ++ s ++ A.extractLsb' 4 2 ++ d.field5 ++ A.extractLsb' 0 4

/-- The word of a well-formed instruction, from its row's encoding (R82, R83, and R92 for the other
spellings, each from its own row). -/
def encode : Instr → Word
  | .and d r => encRdRr5 0b001000 d r
  | .inc d => encRd5 d 0b0011
  | .neg d => encRd5 d 0b0001
  | .andi d K => encImm8 0b0111 d K
  | .or d r => encRdRr5 0b001010 d r
  | .ori d K => encImm8 0b0110 d K
  | .eor d r => encRdRr5 0b001001 d r
  | .com d => encRd5 d 0b0000
  | .dec d => encRd5 d 0b1010
  | .des K => 0b10010100#8 ++ K ++ 0b1011#4
  | .sbr d K => encImm8 0b0110 d K
  | .cbr d K => encImm8 0b0111 d (0xFF - K)
  | .tst d => encRdRr5 0b001000 d d
  | .clr d => encRdRr5 0b001001 d d
  | .ser d => 0b11101111#8 ++ d.field4 ++ 0b1111#4
  | .fmulsu d r => encMul3 1 1 d r
  | .mul d r => encRdRr5 0b100111 d r
  | .muls d r => 0b00000010#8 ++ d.field4 ++ r.field4
  | .mulsu d r => encMul3 0 0 d r
  | .fmul d r => encMul3 0 1 d r
  | .fmuls d r => encMul3 1 0 d r
  | .rjmp k => 0b1100#4 ++ k
  | .ijmp => 0b1001010000001001
  | .brbs f k => encBr7 0 k f.index
  | .brbc f k => encBr7 1 k f.index
  | .breq k => encBr7 0 k 0b001
  | .brne k => encBr7 1 k 0b001
  | .brcs k => encBr7 0 k 0b000
  | .brlo k => encBr7 0 k 0b000
  | .brcc k => encBr7 1 k 0b000
  | .brsh k => encBr7 1 k 0b000
  | .brmi k => encBr7 0 k 0b010
  | .brpl k => encBr7 1 k 0b010
  | .brlt k => encBr7 0 k 0b100
  | .brge k => encBr7 1 k 0b100
  | .ldX d => encLdSt 0 d 0b1100
  | .ldXInc d => encLdSt 0 d 0b1101
  | .ldDecX d => encLdSt 0 d 0b1110
  | .stZInc r => encLdSt 1 r 0b0001
  | .stDecZ r => encLdSt 1 r 0b0010
  | .stdZ q r => encStdZ q r
  | .elpm => 0b1001010111011000
  | .elpmZ d => encLdSt 0 d 0b0110
  | .elpmZInc d => encLdSt 0 d 0b0111
  | .lpmZInc d => encLdSt 0 d 0b0101
  | .spm => 0b1001010111101000
  | .spmZInc => 0b1001010111111000
  | .ioIn d A => encIo 0 A d
  | .ioOut A r => encIo 1 A r
  | .push r => encLdSt 1 r 0b1111
  | .pop d => encLdSt 0 d 0b1111
  | .xch d => encLdSt 1 d 0b0100
  | .las d => encLdSt 1 d 0b0101
  | .lac d => encLdSt 1 d 0b0110
  | .lat d => encLdSt 1 d 0b0111
  | .stZ r => 0b1000001#7 ++ r.field5 ++ 0b0000#4
  | .asr d => encRd5 d 0b0101
  | .lsr d => encRd5 d 0b0110
  | .bset f => encSflag 0 f.index
  | .bclr f => encSflag 1 f.index
  | .lsl d => encRdRr5 0b000011 d d
  | .seh => 0b1001010001011000
  | .clh => 0b1001010011011000
  | .sec => 0b1001010000001000
  | .sez => 0b1001010000011000
  | .sen => 0b1001010000101000
  | .sev => 0b1001010000111000
  | .ses => 0b1001010001001000
  | .setT => 0b1001010001101000
  | .sei => 0b1001010001111000
  | .clc => 0b1001010010001000
  | .nop => 0b0000000000000000
  | .brk => 0b1001010110011000
  | .sleep => 0b1001010110001000
  | .wdr => 0b1001010110101000
  | .add d r => encRdRr5 0b000011 d r
  | .adc d r => encRdRr5 0b000111 d r
  | .sub d r => encRdRr5 0b000110 d r
  | .sbc d r => encRdRr5 0b000010 d r
  | .cpi d K => encImm8 0b0011 d K
  | .ldi d K => encImm8 0b1110 d K
  | .mov d r => encRdRr5 0b001011 d r
  | .movw d r => 0b00000001#8 ++ d.pairField ++ r.pairField

/-- The instruction the decoder reads from the bits `w` of a table row of `nbits` bits. Every instruction
is one 16-bit word (R80), so the bits above `nbits` are zero and the rest is the word. -/
def decodeTableWord (nbits w : Nat) : Option Instr :=
  match decode (BitVec.ofNat 16 (w % 2 ^ nbits)) with
  | .ok i => some i
  | .error _ => none

end Sys2Proof
end

