-- ==== Sys2Proof/Config.lean ====
section
/-! DEFINITION. The parameters of the machine (00_scope.md R6 to R10; 20_memory.md R56; 70_reset_and_hazards.md
R333, R336) as one plain record, and the values the spec leaves open, as constants without a body. -/

namespace Sys2Proof

/-- `CORE`: the version of the CPU. It selects which instructions are admitted and nothing else (R6, R7). -/
inductive Core where
  | avr | avrxm | avrxt | avrrc
  deriving DecidableEq, Repr

/-- What a range of data-space addresses holds (R56). -/
inductive RegionKind where
  /-- The register file, from register `first` on. -/
  | regs (first : Nat)
  /-- I/O locations, from location `first` on. -/
  | io (first : Nat)
  /-- SRAM. -/
  | sram
  /-- Program memory seen in data space, from program byte address `first` on (R187). -/
  | prog (first : Nat)
  deriving DecidableEq, Repr

/-- A range of data-space addresses: `base` to `base + size - 1`. -/
structure Region where
  base : Nat
  size : Nat
  kind : RegionKind
  deriving DecidableEq, Repr

/-- What a user-supplied device model puts at an I/O location (R57, R201, R202). The CPU's own registers
are I/O locations (10_state.md R33), at addresses the spec does not give (D22); `device` is anything outside the CPU. -/
inductive IoPort where
  | sreg | spl | sph | rampd | rampx | rampy | rampz | eind
  /-- A device outside the CPU: it answers a read with `Config.ioRead` and takes a write. -/
  | device
  deriving DecidableEq, Repr

/-- An access to a `device` location, as the device sees it: the location, and the byte of a write. -/
inductive IoEvent where
  | read (loc : Nat)
  | write (loc : Nat) (v : Byte)
  deriving DecidableEq, Repr

/-- The parameters of the machine, fixed during a run (10_state.md R20; log entry 1). -/
structure Device where
  /-- `CORE` (R6). -/
  core : Core
  /-- `HAS_MUL`: the device has the multiply group (R7). -/
  hasMul : Bool
  /-- The device has DES: no device the spec admits does (R125, D12; log entry 13). -/
  hasDes : Bool
  /-- `HAS_RAMP`: the device has RAMPX, RAMPY, RAMPZ and RAMPD (R10; log entry 14). -/
  hasRamp : Bool
  /-- `HAS_EIND`: the device has EIND (R10). -/
  hasEind : Bool
  /-- The device has SPM (R199, Note 3 of R244; log entry 15). -/
  hasSpm : Bool
  /-- The device has MOVW: not "the oldest `AVR` devices" (R257; log entry 16). -/
  hasMovw : Bool
  /-- `RAMEND`: the highest data-space byte address (R8). -/
  ramend : Nat
  /-- `FLASHEND`: the highest program-space word address (R8). -/
  flashend : Nat
  /-- `PC_BITS` (R8, R24). -/
  pcBits : Nat
  /-- `SP_BITS` (R10, R30). -/
  spBits : Nat
  /-- `DataMap`, as ranges; the first that holds an address classifies it (R56; log entry 29). -/
  map : List Region
  /-- A data-space read of program memory is enabled (R59). -/
  progMapped : Bool
  /-- The I/O device model: which locations have one, and what it is (R57, D6, D22; log entry 11). -/
  io : List (Nat × IoPort)
  /-- `RESET_PC` (R37). -/
  resetPc : Nat
  /-- `END_PC`: where a run ends, if anywhere (R336; log entry 22). -/
  endPc : Option Nat
  deriving DecidableEq, Repr

/-- `RAMEND` is within reach: of the stack pointer, so that `RAMEND < 0x10000` (R191; log entry 7), or, with the RAMP
registers, of a pointer that they extend beyond 64 KB (R31; log entry 14). -/
def Device.reachesRamend (dev : Device) : Bool :=
  dev.ramend < 2 ^ dev.spBits || (dev.hasRamp && dev.spBits == 16 && dev.ramend < 0x1000000)

/-- What the spec says of the sizes: `PC_BITS <= 22` and `FLASHEND < 2^PC_BITS` (R8), SP of at most 16 bits (log entry 7),
and a `RAMEND` within reach. -/
def Device.WellFormed (dev : Device) : Bool :=
  dev.pcBits ≤ 22 && dev.flashend < 2 ^ dev.pcBits && dev.spBits ≤ 16 && dev.reachesRamend

/-- The devices the spec admits: none with the RAMP registers or EIND (D7), with SPM (D18) or with DES (D12), and so with
none of the instructions R300 lists as refused on every device. -/
def Device.admitted (dev : Device) : Bool := !dev.hasRamp && !dev.hasEind && !dev.hasSpm && !dev.hasDes

-- Free values: no body, so nothing in Lean can evaluate them or prove a value of them

/-- `Encrypt(R15:R0, K)` of the DES row, which the source does not define (40_arith_logic.md R125; log entry 13). -/
opaque Config.desEncrypt : BitVec 128 → BitVec 4 → BitVec 128

/-- `Decrypt(R15:R0, K)` of the DES row, which the source does not define (40_arith_logic.md R125; log entry 13). -/
opaque Config.desDecrypt : BitVec 128 → BitVec 4 → BitVec 128

/-- What a user-supplied device answers a read of location `loc` with, after the accesses `log` made to
devices so far, newest first (R57, R201; log entry 11). -/
opaque Config.ioRead (log : List IoEvent) (loc : Nat) : Byte

end Sys2Proof
end

