-- ==== Sys2Proof/Machine/Launch.lean ====
section
/-! DEFINITION. Parameter values: the default data map of 20_memory.md R56, the device that `State.reset`
stands for, and the I/O map that 92_eei_decisions.md D22 lets a user supply. -/

namespace Sys2Proof.Machine

/-- The default `DataMap` for `CORE = AVR`: registers at 0x0000 to 0x001F, I/O at 0x0020 to 0x005F, SRAM from
0x0060 to `RAMEND` (R56; PRESUMED there, general knowledge). -/
def defaultMap (ramend : Nat) : List Region := [
  { base := 0, size := 32, kind := .regs 0 },
  { base := 0x20, size := 64, kind := .io 0 },
  { base := 0x60, size := ramend + 1 - 0x60, kind := .sram }]

/-- The I/O locations at which a user may map the CPU's own registers: SREG at 0x3F, SP at 0x3E and 0x3D (D22);
the others at the family's addresses. PRESUMED throughout (log entry 12); `State.reset` does not use it. -/
def cpuIoMap : List (Nat × IoPort) := [
  (0x38, .rampd), (0x39, .rampx), (0x3A, .rampy), (0x3B, .rampz), (0x3C, .eind),
  (0x3D, .spl), (0x3E, .sph), (0x3F, .sreg)]

/-- The device of `State.reset`: the parameter values 95_test_vectors.md takes "unless a line says otherwise",
without DES, RAMP registers, EIND and SPM (D7, D12, D18, R300) and with no I/O device model (D6).
DESIGN CHOICE, unsafe (log entry 1). -/
def resetDevice : Device where
  core := .avr
  hasMul := true
  hasDes := false
  hasRamp := false
  hasEind := false
  hasSpm := false
  hasMovw := true
  ramend := 0x08FF
  flashend := 0x3FFF
  pcBits := 14
  spBits := 16
  map := defaultMap 0x08FF
  progMapped := false
  io := []
  resetPc := 0
  endPc := none

end Sys2Proof.Machine
end

