-- ==== Sys2Proof/Machine/State.lean ====
section
/-! DEFINITION. The state of the machine (10_state.md), the reasons a step stops (60_exceptions.md R300), and
the machine right after reset (10_state.md R37; 70_reset_and_hazards.md R331). -/

namespace Sys2Proof.Machine

/-- The status register: eight independent stored flags (10_state.md R26). -/
structure Sreg where
  /-- Global interrupt enable. -/
  i : Bool
  /-- Transfer bit. -/
  t : Bool
  /-- Half carry. -/
  h : Bool
  /-- Sign, for signed tests; stored, not computed on reading. -/
  s : Bool
  /-- Two's complement overflow. -/
  v : Bool
  /-- Negative. -/
  n : Bool
  /-- Zero. -/
  z : Bool
  /-- Carry. -/
  c : Bool
  deriving DecidableEq, Repr

/-- Everything the spec gives the machine, as plain data. -/
structure State where
  /-- R0 to R31 (R21). -/
  regs : Vector Byte 32
  /-- The program counter, a word address, an integer (R24, R25). -/
  pc : Nat
  /-- SREG (R26). -/
  sreg : Sreg
  /-- The stack pointer (R30; log entry 7). -/
  sp : Word
  /-- RAMPX (R31; log entry 6). -/
  rampx : Byte
  /-- RAMPY (R31; log entry 6). -/
  rampy : Byte
  /-- RAMPZ (R31; log entry 6). -/
  rampz : Byte
  /-- RAMPD (R32; log entry 6). -/
  rampd : Byte
  /-- EIND (R32; log entry 6). -/
  eind : Byte
  /-- The SRAM bytes that have a value, addresses strictly rising (R54, R58). -/
  mem : List Host.Cell
  /-- The program words that have a value, word addresses strictly rising (R52, R333). -/
  prog : List (Nat × Word)
  /-- The model's own: accesses to user-supplied devices, newest first (log entry 11). -/
  ioLog : List IoEvent
  /-- The parameters of the machine; no step changes them (R20; log entry 1). -/
  dev : Device
  deriving DecidableEq, Repr

/-- A step stops: an access to something that does not exist or that has no value. The hardware as the spec has
it reports nothing; a stopped step has no successor (R13, R300; log entry 17). -/
inductive Fault where
  /-- `data_out_of_range`: a data address above RAMEND or unmapped, or in program memory seen in data space
  (write, or read not enabled) (R54, R59). Raised by loads, stores and the stack, and by XCH, LAS, LAC and LAT at an
  address that is neither SRAM nor I/O (log entry 18). Safe. -/
  | dataOutOfRange
  /-- `fetch_out_of_range`: pc above FLASHEND at a fetch (R176). Raised by the step. Safe. -/
  | fetchOutOfRange
  /-- `pc_out_of_range`: a relative branch to a negative address (R160, R162). Raised by relative jumps and
  branches. Safe. -/
  | pcOutOfRange
  /-- `sp_underflow`: a PUSH with SP = 0 (R205). Safe. -/
  | spUnderflow
  /-- `unwritten_read`: a read of an SRAM byte that has no value (R58), or a fetch or read of a program word that
  nothing has placed (R333; log entry 10). Raised by loads, POP, the read-modify-write instructions, LPM, ELPM and the
  step. Safe. -/
  | unwrittenRead
  /-- `prog_read_out_of_range`: a program byte address beyond FLASHEND. Raised by LPM (R196), and by the model's choice by
  ELPM (log entry 14), SPM (log entry 15) and an enabled data-space read of program memory (log entry 32). Safe. -/
  | progReadOutOfRange
  deriving DecidableEq, Repr

/-- The spec gives the instruction, or this form of it, no meaning on this device (R13, R300; log entry 17). -/
inductive Refusal where
  /-- `unknown_word`: the word decodes to no instruction (R91). Raised by the step. Safe. -/
  | unknownWord
  /-- `unavailable_instruction`: the device does not have the instruction (R7, R91, R300). Raised by the
  instructions whose availability depends on the device, and by BREAK and SLEEP on every device. Safe. -/
  | unavailableInstruction
  /-- `io_access`: an I/O location without a device model, or with a register the device lacks (R57). Raised by
  IN, OUT and data-space accesses to I/O, and by XCH, LAS, LAC and LAT at every I/O address (log entry 18). Safe. -/
  | ioAccess
  /-- `pointer_register_conflict`: a load or store that updates the pointer it also transfers (R183). Safe. -/
  | pointerRegisterConflict
  /-- pc = END_PC: the run has ended and no step is taken (R176, R336; log entry 22). Raised by the step. Safe. -/
  | runEnded
  /-- An instruction the model gives no meaning; raised by arms of `exec` only. Safe. -/
  | notModelled (mnemonic : String)
  deriving DecidableEq, Repr

/-- The machine right after reset: R331's defaults (pc and flags 0, SP at RAMEND), registers at the values the
log names (entries 2 to 6), memories with nothing listed (entries 9, 10), the device of entry 1. -/
def State.reset : State where
  regs := Vector.replicate 32 0
  pc := resetDevice.resetPc
  sreg := { i := false, t := false, h := false, s := false, v := false, n := false, z := false, c := false }
  sp := BitVec.ofNat 16 resetDevice.ramend
  rampx := 0
  rampy := 0
  rampz := 0
  rampd := 0
  eind := 0
  mem := []
  prog := []
  ioLog := []
  dev := resetDevice

end Sys2Proof.Machine
end

