-- ==== Sys2Proof/Machine/Ops.lean ====
section
/-! DEFINITION. The named operations over the state: registers and pairs, the two memories, data space with its
I/O locations, the stack pointer, and the ways an instruction ends. TAKING AN EXCEPTION has no operation here, nor
has returning from one: the spec defines no exception and no interrupt entry (60_exceptions.md R300, R303, R304), and
its one return instruction, RETI, has no encoding and no operation (46_supplement.md R262). -/

namespace Sys2Proof.Machine

/-- What an operation answers: a value, a fault or a refusal. -/
abbrev Res (α : Type) := Host.Outcome α Fault Refusal

/-- Go on with the answer, if there is one; a stop stays the stop it is, and nothing has changed (R13). -/
def andThen {α β : Type} (r : Res α) (f : α → Res β) : Res β :=
  match r with
  | .next a => f a
  | .fault e => .fault e
  | .refused e => .refused e

-- Registers (10_state.md R12, R21, R22)

/-- `x[i]`. -/
def State.reg (s : State) (i : Reg) : Byte := s.regs[i.val]

/-- `x[i] <- v`. -/
def State.setReg (s : State) (i : Reg) (v : Byte) : State := { s with regs := s.regs.set i.val v }

/-- `x[hi] ++ x[lo]`, the high byte in the higher-numbered register (R22, R50). -/
def State.pair (s : State) (hi lo : Reg) : Word := s.reg hi ++ s.reg lo

/-- `x[hi] ++ x[lo] <- v` (R22, R50). -/
def State.setPair (s : State) (hi lo : Reg) (v : Word) : State :=
  (s.setReg hi (v.extractLsb' 8 8)).setReg lo (v.extractLsb' 0 8)

/-- The pointer X = R27:R26 (R22). -/
def State.ptrX (s : State) : Word := s.pair 27 26

/-- X is set to `v`. -/
def State.setPtrX (s : State) (v : Word) : State := s.setPair 27 26 v

/-- The pointer Z = R31:R30 (R22). -/
def State.ptrZ (s : State) : Word := s.pair 31 30

/-- Z is set to `v`. -/
def State.setPtrZ (s : State) (v : Word) : State := s.setPair 31 30 v

/-- R15:R0 as one value, R15 the most significant byte (R12, R22, R125). -/
def State.lowBlock (s : State) : BitVec 128 :=
  s.reg 15 ++ s.reg 14 ++ s.reg 13 ++ s.reg 12 ++ s.reg 11 ++ s.reg 10 ++ s.reg 9 ++ s.reg 8 ++
    s.reg 7 ++ s.reg 6 ++ s.reg 5 ++ s.reg 4 ++ s.reg 3 ++ s.reg 2 ++ s.reg 1 ++ s.reg 0

/-- R15:R0 is set to `v`; R16 to R31 stay. -/
def State.setLowBlock (s : State) (v : BitVec 128) : State :=
  { s with regs := Vector.ofFn fun i : Reg => if i.val < 16 then v.extractLsb' (8 * i.val) 8 else s.reg i }

-- Status register (10_state.md R26, R27)

/-- The value of a flag. -/
def Sreg.get (sr : Sreg) : Flag → Bool
  | .c => sr.c
  | .z => sr.z
  | .n => sr.n
  | .v => sr.v
  | .s => sr.s
  | .h => sr.h
  | .t => sr.t
  | .i => sr.i

/-- One flag is set to `b`; no other changes. -/
def Sreg.set (sr : Sreg) (f : Flag) (b : Bool) : Sreg :=
  match f with
  | .c => { sr with c := b }
  | .z => { sr with z := b }
  | .n => { sr with n := b }
  | .v => { sr with v := b }
  | .s => { sr with s := b }
  | .h => { sr with h := b }
  | .t => { sr with t := b }
  | .i => { sr with i := b }

/-- SREG as a byte: `I ++ T ++ H ++ S ++ V ++ N ++ Z ++ C` (R27; log entry 12). -/
def Sreg.toByte (sr : Sreg) : Byte :=
  BitVec.ofBool sr.i ++ BitVec.ofBool sr.t ++ BitVec.ofBool sr.h ++ BitVec.ofBool sr.s ++
    BitVec.ofBool sr.v ++ BitVec.ofBool sr.n ++ BitVec.ofBool sr.z ++ BitVec.ofBool sr.c

/-- The eight flags of a byte (R27; log entry 12). -/
def Sreg.ofByte (b : Byte) : Sreg where
  i := b.getLsbD 7
  t := b.getLsbD 6
  h := b.getLsbD 5
  s := b.getLsbD 4
  v := b.getLsbD 3
  n := b.getLsbD 2
  z := b.getLsbD 1
  c := b.getLsbD 0

-- Memories: lists of (address, value), addresses strictly rising; an unlisted address has no value

/-- The value at an address; `none` where nothing is listed (R58; log entries 9, 10). -/
def Memory.read {α : Type} : List (Nat × α) → Nat → Option α
  | [], _ => none
  | (b, v) :: m, a => if a = b then some v else Memory.read m a

/-- The value at one address becomes `v`; the addresses stay strictly rising. -/
def Memory.write {α : Type} : List (Nat × α) → Nat → α → List (Nat × α)
  | [], a, v => [(a, v)]
  | (b, w) :: m, a, v =>
    if a < b then (a, v) :: (b, w) :: m
    else if a = b then (a, v) :: m
    else (b, w) :: Memory.write m a v

/-- The canonical form: addresses strictly rising. No listed entry can equal what an unlisted address reads
as, since that has no value. -/
def Memory.wf {α : Type} : List (Nat × α) → Bool
  | [] => true
  | [_] => true
  | (a, _) :: (b, w) :: m => a < b && Memory.wf ((b, w) :: m)

-- Program memory (20_memory.md R52, R66)

/-- The program word at a word address: out of range above FLASHEND, and unwritten where nothing has been placed
(log entry 10). -/
def State.progWord (s : State) (w : Nat) (beyond : Fault) : Res Word :=
  if s.dev.flashend < w then .fault beyond
  else match Memory.read s.prog w with
    | some v => .next v
    | none => .fault .unwrittenRead

/-- The byte of a word that a byte address selects: bits 7:0 when it is even, bits 15:8 when it is odd (R52). -/
def byteOfWord (w : Word) (a : Nat) : Byte := if a % 2 = 0 then w.extractLsb' 0 8 else w.extractLsb' 8 8

/-- The program byte at byte address `a`: in word `a >> 1` (R52, R196). -/
def State.progByte (s : State) (a : Nat) : Res Byte :=
  andThen (s.progWord (a / 2) .progReadOutOfRange) fun w => .next (byteOfWord w a)

/-- One program word is written: the operation line of SPM; the reason for a word beyond FLASHEND is that of LPM
(R199; log entry 15). -/
def State.progWrite (s : State) (w : Nat) (v : Word) : Res State :=
  if s.dev.flashend < w then .fault .progReadOutOfRange
  else .next { s with prog := Memory.write s.prog w v }

-- I/O locations (20_memory.md R57; 43_data_transfer.md R201, R202)

/-- The device model at an I/O location, if one is supplied. -/
def Device.ioPort (dev : Device) (loc : Nat) : Option IoPort :=
  (dev.io.find? (fun e => e.1 == loc)).map (fun e => e.2)

/-- The stack pointer is set; bits from `SP_BITS` up do not exist (R10, R30; log entry 7). -/
def State.setSp (s : State) (v : Word) : State := { s with sp := BitVec.ofNat 16 (v.toNat % 2 ^ s.dev.spBits) }

/-- The device has the register a port is: RAMPX, RAMPY, RAMPZ and RAMPD where `HAS_RAMP`, EIND where `HAS_EIND` (R10). -/
def Device.hasPort (dev : Device) : IoPort → Bool
  | .sreg => true
  | .spl => true
  | .sph => true
  | .rampd => dev.hasRamp
  | .rampx => dev.hasRamp
  | .rampy => dev.hasRamp
  | .rampz => dev.hasRamp
  | .eind => dev.hasEind
  | .device => true

/-- The byte a port answers a read with: the register's, or a device's free value (log entry 11). -/
def State.portByte (s : State) (loc : Nat) : IoPort → Byte
  | .sreg => s.sreg.toByte
  | .spl => s.sp.extractLsb' 0 8
  | .sph => s.sp.extractLsb' 8 8
  | .rampd => s.rampd
  | .rampx => s.rampx
  | .rampy => s.rampy
  | .rampz => s.rampz
  | .eind => s.eind
  | .device => Config.ioRead s.ioLog loc

/-- A device sees a read of its location; a read of a CPU register has no side effect (R57; log entry 11). -/
def State.logRead (s : State) (loc : Nat) (p : IoPort) : State :=
  { s with ioLog := if p = .device then .read loc :: s.ioLog else s.ioLog }

/-- A write of a port: of SREG it changes all eight flags (R28, R202, D22), of SP one half; a device sees it. -/
def State.writePort (s : State) (loc : Nat) (v : Byte) : IoPort → State
  | .sreg => { s with sreg := Sreg.ofByte v }
  | .spl => s.setSp (s.sp.extractLsb' 8 8 ++ v)
  | .sph => s.setSp (v ++ s.sp.extractLsb' 0 8)
  | .rampd => { s with rampd := v }
  | .rampx => { s with rampx := v }
  | .rampy => { s with rampy := v }
  | .rampz => { s with rampz := v }
  | .eind => { s with eind := v }
  | .device => { s with ioLog := .write loc v :: s.ioLog }

/-- The port at an I/O location: refused without a device model (R57, D6), or for a register the device lacks. -/
def State.portAt (s : State) (loc : Nat) : Res IoPort :=
  match Device.ioPort s.dev loc with
  | none => .refused .ioAccess
  | some p => if Device.hasPort s.dev p then .next p else .refused .ioAccess

/-- `IoRead(loc)` (R57, R201; log entry 11). -/
def State.ioRead (s : State) (loc : Nat) : Res (Byte × State) :=
  andThen (s.portAt loc) fun p => .next (s.portByte loc p, s.logRead loc p)

/-- `IoWrite(loc, v)` (R57, R202; log entry 11). -/
def State.ioWrite (s : State) (loc : Nat) (v : Byte) : Res State :=
  andThen (s.portAt loc) fun p => .next (s.writePort loc v p)

-- Data space (20_memory.md R54, R56 to R59)

/-- The classes of `DataMap` (R56). -/
inductive DataClass where
  | reg (i : Reg)
  | io (loc : Nat)
  | sram
  | progByte (a : Nat)
  | unmapped
  deriving DecidableEq, Repr

/-- The class of the `j`-th address of a range. -/
def RegionKind.classAt (kind : RegionKind) (j : Nat) : DataClass :=
  match kind with
  | .regs first => if h : first + j < 32 then .reg ⟨first + j, h⟩ else .unmapped
  | .io first => .io (first + j)
  | .sram => .sram
  | .prog first => .progByte (first + j)

/-- `DataMap`: the class of a data-space address; above RAMEND it is `unmapped` (R54, R56). -/
def Device.classify (dev : Device) (a : Nat) : DataClass :=
  if dev.ramend < a then .unmapped
  else match dev.map.find? (fun g => g.base ≤ a && a < g.base + g.size) with
    | some g => RegionKind.classAt g.kind (a - g.base)
    | none => .unmapped

/-- An SRAM byte; a stop where nothing has been written (R58). -/
def State.sramRead (s : State) (a : Nat) : Res Byte :=
  match Memory.read s.mem a with
  | some v => .next v
  | none => .fault .unwrittenRead

/-- An SRAM byte is written. -/
def State.sramWrite (s : State) (a : Nat) (v : Byte) : State := { s with mem := Memory.write s.mem a v }

/-- `MemRead(addr, 1)`: the address is an integer, not wrapped (R54, R57 to R59). DESIGN CHOICE, safe (log entry 32): an
enabled read of program memory beyond FLASHEND, of which R52, R59 and R300 say nothing, stops as LPM's does (R196). -/
def State.memRead (s : State) (a : Nat) : Res (Byte × State) :=
  match Device.classify s.dev a with
  | .reg i => .next (s.reg i, s)
  | .io loc => s.ioRead loc
  | .sram => andThen (s.sramRead a) fun v => .next (v, s)
  | .progByte b =>
    if s.dev.progMapped then andThen (s.progByte b) fun v => .next (v, s) else .fault .dataOutOfRange
  | .unmapped => .fault .dataOutOfRange

/-- `MemWrite(addr, 1, v)`: a write to program memory seen in data space is always refused (R54, R57, R59). -/
def State.memWrite (s : State) (a : Nat) (v : Byte) : Res State :=
  match Device.classify s.dev a with
  | .reg i => .next (s.setReg i v)
  | .io loc => s.ioWrite loc v
  | .sram => .next (s.sramWrite a v)
  | .progByte _ => .fault .dataOutOfRange
  | .unmapped => .fault .dataOutOfRange

-- Which instructions a device has (00_scope.md R7; 43_data_transfer.md R192 to R200; 46_supplement.md R257)

/-- The multiply group: `HAS_MUL`, and never on `AVRrc` (R7). -/
def Device.offersMul (dev : Device) : Bool := dev.hasMul && dev.core != .avrrc

/-- XCH, LAS, LAC, LAT exist on `AVRxm` only (R7). -/
def Device.isXm (dev : Device) : Bool := dev.core == .avrxm

/-- DES exists on `AVRxm` only (R7), and on no device the spec admits (R125, D12; log entry 13). -/
def Device.offersDes (dev : Device) : Bool := dev.hasDes && dev.core == .avrxm

/-- LPM Rd,Z+ is "N/A" on `AVRrc` (R7, R196). -/
def Device.offersLpm (dev : Device) : Bool := dev.core != .avrrc

/-- ELPM is "N/A" on `AVRrc` and reads RAMPZ, so the device must have it (R7, R193; log entry 14). -/
def Device.offersElpm (dev : Device) : Bool := dev.hasRamp && dev.core != .avrrc

/-- SPM is "N/A" on `AVRrc` and "not available on all devices" (R7, R199, R244; log entry 15). -/
def Device.offersSpm (dev : Device) : Bool := dev.hasSpm && dev.core != .avrrc

/-- MOVW is "not available on `AVRrc` and on the oldest `AVR` devices" (R257; log entry 16). -/
def Device.offersMovw (dev : Device) : Bool := dev.hasMovw && dev.core != .avrrc

/-- STD Z+q with q not 0 is absent on `AVRrc` (R192). -/
def Device.offersStd (dev : Device) (q : BitVec 6) : Bool := q == 0 || dev.core != .avrrc

/-- The instruction runs where the device has it; elsewhere it is refused (R7, D12). -/
def requires (has : Bool) (r : Res State) : Res State := if has then r else .refused .unavailableInstruction

-- How an instruction ends (42_branch.md R175)

/-- `pc <- pc + 1`: the end of every instruction that is not a branch (R175). -/
def State.advance (s : State) : State := { s with pc := s.pc + 1 }

/-- SREG is replaced. -/
def State.setSreg (s : State) (sr : Sreg) : State := { s with sreg := sr }

end Sys2Proof.Machine
end

