-- ==== Sys2Proof/Machine/Operands.lean ====
section
/-! DEFINITION. The operand forms: the pointer forms of loads and stores (43_data_transfer.md R182; 20_memory.md R60),
the accesses of LPM, ELPM and SPM to program memory (R193 to R200), branch targets (42_branch.md R160, R162), the products of the
multiply group (41_multiply.md R141, R146 to R150), and the register-to-register shapes built from them. -/

namespace Sys2Proof.Machine

-- Pointers: X and Z, with RAMPX and RAMPZ above them on a device that has these (R31, R60; log entry 14)

/-- RAMPX is set to `v`. -/
def State.setRampx (s : State) (v : Byte) : State := { s with rampx := v }

/-- RAMPZ is set to `v`. -/
def State.setRampz (s : State) (v : Byte) : State := { s with rampz := v }

/-- One past the largest pointer: 2^16, or 2^24 where a RAMP register extends it (R31, R60; log entries 6, 14). -/
def Device.ptrSpan (dev : Device) : Nat := if dev.hasRamp then 0x1000000 else 0x10000

/-- A pointer with its extension register as one number, the register the high part (R31, R193); without the register,
the pair alone. -/
def Device.extend (dev : Device) (ramp : Byte) (p : Word) : Nat :=
  (if dev.hasRamp then 0x10000 * ramp.toNat else 0) + p.toNat

/-- The extension register of a pointer set to `a`; a device without the register keeps what State holds for it. -/
def Device.rampOf (dev : Device) (a : Nat) (ramp : Byte) : Byte :=
  if dev.hasRamp then BitVec.ofNat 8 (a / 0x10000) else ramp

/-- `(RAMPX:X) <- a`, or `X <- a` (R31, R60). -/
def State.setWideX (s : State) (a : Nat) : State :=
  (s.setPtrX (BitVec.ofNat 16 a)).setRampx (Device.rampOf s.dev a s.rampx)

/-- `(RAMPZ:Z) <- a`, or `Z <- a`: a carry out of Z goes into RAMPZ (R31, R60, R195). -/
def State.setWideZ (s : State) (a : Nat) : State :=
  (s.setPtrZ (BitVec.ofNat 16 a)).setRampz (Device.rampOf s.dev a s.rampz)

/-- A pointer one higher, modulo its span (R60). -/
def ptrInc (dev : Device) (a : Nat) : Nat := (a + 1) % Device.ptrSpan dev

/-- A pointer one lower, modulo its span (R60). -/
def ptrDec (dev : Device) (a : Nat) : Nat := (a + (Device.ptrSpan dev - 1)) % Device.ptrSpan dev

/-- The pointer of `X`, `X+` and `-X` before the instruction, and the address of the first two (R184, R185). -/
def addrX (s : State) : Nat := Device.extend s.dev s.rampx s.ptrX

/-- The address of `-X`: the lowered pointer (R186). -/
def addrDecX (s : State) : Nat := ptrDec s.dev (addrX s)

/-- The pointer of `Z`, `Z+` and `-Z` before the instruction, and the address of the first two: of stores (R188, R189),
of the read-modify-write instructions (R207), and the `(RAMPZ:Z)` of ELPM and SPM (R193, R199; log entries 14, 15). -/
def addrZ (s : State) : Nat := Device.extend s.dev s.rampz s.ptrZ

/-- The address of `-Z`: the lowered pointer (R190). -/
def addrDecZ (s : State) : Nat := ptrDec s.dev (addrZ s)

/-- The address of `Z+q`: an integer, not truncated (R191). -/
def addrZq (s : State) (q : BitVec 6) : Nat := addrZ s + q.toNat

/-- `d` is a half of X: with a pointer update the combination is undefined (R183). -/
def isHalfOfX (d : Reg) : Bool := d == 26 || d == 27

/-- `d` is a half of Z: with a pointer update the combination is undefined (R183; log entry 20). -/
def isHalfOfZ (d : Reg) : Bool := d == 30 || d == 31

/-- Refuse a form whose pointer update meets the register it transfers (R183, D19). -/
def unlessConflict (conflict : Bool) (r : Res State) : Res State :=
  if conflict then .refused .pointerRegisterConflict else r

/-- Load a byte of data space into a register; the pointer update `upd` comes last (R182, R184 to R186). -/
def loadByte (d : Reg) (a : Nat) (upd : State → State) (s : State) : Res State :=
  andThen (s.memRead a) fun (v, s1) => .next (upd (s1.setReg d v)).advance

/-- Store a register to a byte of data space; the pointer update `upd` comes last (R182, R188 to R191; log entry 19). -/
def storeByte (r : Reg) (a : Nat) (upd : State → State) (s : State) : Res State :=
  andThen (s.memWrite a (s.reg r)) fun s1 => .next (upd s1).advance

/-- XCH, LAS, LAC, LAT: the byte at (Z) and Rd, both assignments from the values before; SRAM only (section 7 of
43_data_transfer.md; log entry 18). `f` gives the byte written from Rd and the old byte. -/
def readModifyWrite (f : Byte → Byte → Byte) (d : Reg) (s : State) : Res State :=
  match Device.classify s.dev (addrZ s) with
  | .sram => andThen (s.sramRead (addrZ s)) fun m =>
      .next ((s.sramWrite (addrZ s) (f (s.reg d) m)).setReg d m).advance
  | .reg _ => .fault .dataOutOfRange
  | .io _ => .refused .ioAccess
  | .progByte _ => .fault .dataOutOfRange
  | .unmapped => .fault .dataOutOfRange

-- Program memory (R193 to R200)

/-- Load a program byte into a register; the pointer update `upd` comes last (R193 to R196). -/
def loadProgByte (d : Reg) (a : Nat) (upd : State → State) (s : State) : Res State :=
  andThen (s.progByte a) fun v => .next (upd (s.setReg d v)).advance

/-- Store R1:R0 to the program word that holds byte address `(RAMPZ:Z)`; the pointer update comes last
(R199, R200; log entry 15). -/
def storeProgWord (upd : State → State) (s : State) : Res State :=
  andThen (s.progWrite (addrZ s / 2) (s.pair 1 0)) fun s1 => .next (upd s1).advance

-- Branch targets (R160, R162)

/-- `pc + k + 1`, in integer arithmetic; `pc` is the address of the branch itself (R24, R160). -/
def relTarget (pc : Nat) (k : Int) : Int := pc + k + 1

/-- The jump of RJMP and of a taken branch: a negative target is refused (R160, D11). -/
def jumpRel (k : Int) (s : State) : Res State :=
  if relTarget s.pc k < 0 then .fault .pcOutOfRange else .next { s with pc := (relTarget s.pc k).toNat }

/-- A conditional branch: the jump where the condition holds, else the next instruction (R162, R163). -/
def branchIf (taken : Bool) (k : BitVec 7) (s : State) : Res State :=
  if taken then jumpRel k.toInt s else .next s.advance

-- Products (R141, R146 to R150): exact integers, then 16 bits

/-- Unsigned x unsigned. -/
def productUU (a b : Byte) : Word := BitVec.ofNat 16 (a.toNat * b.toNat)

/-- Signed x signed. -/
def productSS (a b : Byte) : Word := BitVec.ofInt 16 (a.toInt * b.toInt)

/-- Signed (the first) x unsigned (the second). -/
def productSU (a b : Byte) : Word := BitVec.ofInt 16 (a.toInt * (b.toNat : Int))

end Sys2Proof.Machine
end

