-- ==== Sys2Proof/Machine/Flags.lean ====
section
/-! DEFINITION. The flag computations, each from the rule that gives it. A flag a function does not name keeps its
value (10_state.md R28). -/

namespace Sys2Proof.Machine

/-- N, V, Z given; `S <- N ^ V` from the new N and V (10_state.md R26). -/
def Sreg.withNVZ (sr : Sreg) (n v z : Bool) : Sreg := { sr with n := n, v := v, z := z, s := n ^^ v }

/-- `logic_flags(R)` (40_arith_logic.md R110). -/
def logicFlags (R : Byte) (sr : Sreg) : Sreg := sr.withNVZ (R.getLsbD 7) false (R == 0)

/-- INC: V is set when the result is 0x80; C is not affected (R112). -/
def incFlags (R : Byte) (sr : Sreg) : Sreg := sr.withNVZ (R.getLsbD 7) (R == 0x80) (R == 0)

/-- DEC: V is set when the result is 0x7F; C is not affected (R121). -/
def decFlags (R : Byte) (sr : Sreg) : Sreg := sr.withNVZ (R.getLsbD 7) (R == 0x7F) (R == 0)

/-- NEG: `a` is Rd before the write (R113). -/
def negFlags (a R : Byte) (sr : Sreg) : Sreg :=
  { sr.withNVZ (R.getLsbD 7) (R == 0x80) (R == 0) with h := R.getLsbD 3 || a.getLsbD 3, c := R != 0 }

/-- COM: as the logic flags, and C is set (R118). -/
def comFlags (R : Byte) (sr : Sreg) : Sreg := { logicFlags R sr with c := true }

/-- A shift of one place: C is the bit shifted out, `V <- N ^ C` after the shift (44_shift_bit.md R220, R221, R224). -/
def shiftFlags (out : Bool) (R : Byte) (sr : Sreg) : Sreg :=
  { sr.withNVZ (R.getLsbD 7) (R.getLsbD 7 ^^ out) (R == 0) with c := out }

/-- LSL: as a shift, and H is bit 3 of Rd before it (R221). -/
def lslFlags (a R : Byte) (sr : Sreg) : Sreg := { shiftFlags (a.getLsbD 7) R sr with h := a.getLsbD 3 }

/-- The carry out of bit `j` of an addition `a + b (+ c) = R` (46_supplement.md R258). -/
def addCarry (a b R : Byte) (j : Nat) : Bool :=
  a.getLsbD j && b.getLsbD j || b.getLsbD j && !R.getLsbD j || !R.getLsbD j && a.getLsbD j

/-- `add_flags(a, b, c, R)` (46_supplement.md R258). -/
def addFlags (a b R : Byte) (sr : Sreg) : Sreg :=
  { sr.withNVZ (R.getLsbD 7)
      (a.getLsbD 7 && b.getLsbD 7 && !R.getLsbD 7 || !a.getLsbD 7 && !b.getLsbD 7 && R.getLsbD 7)
      (R == 0) with h := addCarry a b R 3, c := addCarry a b R 7 }

/-- The borrow out of bit `j` of a subtraction `a - b (- c) = R` (46_supplement.md R259). -/
def subBorrow (a b R : Byte) (j : Nat) : Bool :=
  !a.getLsbD j && b.getLsbD j || b.getLsbD j && R.getLsbD j || R.getLsbD j && !a.getLsbD j

/-- `sub_flags(a, b, c, R)` (46_supplement.md R259). -/
def subFlags (a b R : Byte) (sr : Sreg) : Sreg :=
  { sr.withNVZ (R.getLsbD 7)
      (a.getLsbD 7 && !b.getLsbD 7 && !R.getLsbD 7 || !a.getLsbD 7 && b.getLsbD 7 && R.getLsbD 7)
      (R == 0) with h := subBorrow a b R 3, c := subBorrow a b R 7 }

/-- SBC: as `sub_flags`, but Z is kept only if it was set and the result is zero (46_supplement.md R253). -/
def sbcFlags (a b R : Byte) (sr : Sreg) : Sreg := { subFlags a b R sr with z := R == 0 && sr.z }

/-- The 16 bits a multiply writes: the product, or the product shifted left one place (41_multiply.md R140). -/
def mulResult (P : Word) (frac : Bool) : Word := if frac then P <<< 1 else P

/-- The flags of `mul_write(P, frac)`: C is bit 15 of the product before any shift, Z is set when the 16 bits
written are zero; no other flag (41_multiply.md R140). -/
def mulFlags (P : Word) (frac : Bool) (sr : Sreg) : Sreg :=
  { sr with c := P.getLsbD 15, z := mulResult P frac == 0 }

/-- `mul_write(P, frac)`, the common tail of the six multiplies (41_multiply.md R140). -/
def mulWrite (P : Word) (frac : Bool) (s : State) : State :=
  (s.setSreg (mulFlags P frac s.sreg)).setPair 1 0 (mulResult P frac)

/-- Write a result to Rd with its flags and go on: the tail of the one-result instructions (R111 and on). -/
def writeResult (d : Reg) (R : Byte) (sr : Sreg) (s : State) : Res State :=
  .next ((s.setReg d R).setSreg sr).advance

end Sys2Proof.Machine
end

