-- ==== Sys2Proof/Machine/ArithLogic.lean ====
section
/-! DEFINITION. The arithmetic and logic instructions of 40_arith_logic.md (R110 to R125), one meaning each. -/

namespace Sys2Proof.Machine

/-- AND Rd,Rr (R111). -/
def execAnd (d r : Reg) (s : State) : Res State :=
  let R := s.reg d &&& s.reg r
  writeResult d R (logicFlags R s.sreg) s

/-- INC Rd (R112). -/
def execInc (d : Reg) (s : State) : Res State :=
  let R := s.reg d + 1
  writeResult d R (incFlags R s.sreg) s

/-- NEG Rd (R113). -/
def execNeg (d : Reg) (s : State) : Res State :=
  let R := 0 - s.reg d
  writeResult d R (negFlags (s.reg d) R s.sreg) s

/-- ANDI Rd,K (R114). -/
def execAndi (d : Reg) (K : Byte) (s : State) : Res State :=
  let R := s.reg d &&& K
  writeResult d R (logicFlags R s.sreg) s

/-- OR Rd,Rr (R115). -/
def execOr (d r : Reg) (s : State) : Res State :=
  let R := s.reg d ||| s.reg r
  writeResult d R (logicFlags R s.sreg) s

/-- ORI Rd,K (R116). -/
def execOri (d : Reg) (K : Byte) (s : State) : Res State :=
  let R := s.reg d ||| K
  writeResult d R (logicFlags R s.sreg) s

/-- EOR Rd,Rr (R117). -/
def execEor (d r : Reg) (s : State) : Res State :=
  let R := s.reg d ^^^ s.reg r
  writeResult d R (logicFlags R s.sreg) s

/-- COM Rd (R118). -/
def execCom (d : Reg) (s : State) : Res State :=
  let R := ~~~(s.reg d)
  writeResult d R (comFlags R s.sreg) s

/-- DEC Rd (R121). -/
def execDec (d : Reg) (s : State) : Res State :=
  let R := s.reg d - 1
  writeResult d R (decFlags R s.sreg) s

/-- SBR Rd,K: `Rd <- Rd v K`, with the flags of ORI (R119). -/
def execSbr (d : Reg) (K : Byte) (s : State) : Res State :=
  let R := s.reg d ||| K
  writeResult d R (logicFlags R s.sreg) s

/-- CBR Rd,K: `R <- x[d] & ~K` (R120). -/
def execCbr (d : Reg) (K : Byte) (s : State) : Res State :=
  let R := s.reg d &&& ~~~K
  writeResult d R (logicFlags R s.sreg) s

/-- TST Rd: Rd is unchanged, `logic_flags(x[d])` (R122). -/
def execTst (d : Reg) (s : State) : Res State :=
  .next (s.setSreg (logicFlags (s.reg d) s.sreg)).advance

/-- CLR Rd: `x[d] <- 0x00`, S = 0, V = 0, N = 0, Z = 1 (R123). -/
def execClr (d : Reg) (s : State) : Res State :=
  .next ((s.setReg d 0).setSreg { s.sreg with s := false, v := false, n := false, z := true }).advance

/-- SER Rd: `x[d] <- 0xFF`, no flag (R124). -/
def execSer (d : Reg) (s : State) : Res State :=
  .next (s.setReg d 0xFF).advance

/-- DES K: `if H = 0 then R15:R0 <- Encrypt(R15:R0, K) else R15:R0 <- Decrypt(R15:R0, K)`, no flag; where
the device has it (R125, R7, D12). The two functions are free values (log entry 13). -/
def execDes (K : BitVec 4) (s : State) : Res State :=
  requires (Device.offersDes s.dev) <|
    let block := if s.sreg.h then Config.desDecrypt s.lowBlock K else Config.desEncrypt s.lowBlock K
    .next (s.setLowBlock block).advance


end Sys2Proof.Machine
end

