-- ==== Sys2Proof/Machine/Branch.lean ====
section
/-! DEFINITION. The branch instructions of 42_branch.md (R160 to R173), one meaning each. None accesses data memory, writes a
general register or writes a flag. -/

namespace Sys2Proof.Machine

/-- RJMP k (R160). -/
def execRjmp (k : BitVec 12) (s : State) : Res State :=
  jumpRel k.toInt s

/-- IJMP: bits 15:0 of pc from Z, every higher bit zero; Z beyond FLASHEND is refused at the next fetch (R161). -/
def execIjmp (s : State) : Res State :=
  .next { s with pc := s.ptrZ.toNat }

/-- BRBS s,k: taken when the flag is set (R162). -/
def execBrbs (f : Flag) (k : BitVec 7) (s : State) : Res State :=
  branchIf (s.sreg.get f) k s

/-- BRBC s,k: taken when the flag is clear (R163). -/
def execBrbc (f : Flag) (k : BitVec 7) (s : State) : Res State :=
  branchIf (!s.sreg.get f) k s

/-- BREQ k: taken when Z = 1 (R164). -/
def execBreq (k : BitVec 7) (s : State) : Res State :=
  branchIf s.sreg.z k s

/-- BRNE k: taken when Z = 0 (R165). -/
def execBrne (k : BitVec 7) (s : State) : Res State :=
  branchIf (!s.sreg.z) k s

/-- BRCS k: taken when C = 1 (R166). -/
def execBrcs (k : BitVec 7) (s : State) : Res State :=
  branchIf s.sreg.c k s

/-- BRLO k: taken when C = 1 (R167). -/
def execBrlo (k : BitVec 7) (s : State) : Res State :=
  branchIf s.sreg.c k s

/-- BRCC k: taken when C = 0 (R168). -/
def execBrcc (k : BitVec 7) (s : State) : Res State :=
  branchIf (!s.sreg.c) k s

/-- BRSH k: taken when C = 0 (R169). -/
def execBrsh (k : BitVec 7) (s : State) : Res State :=
  branchIf (!s.sreg.c) k s

/-- BRMI k: taken when N = 1 (R170). -/
def execBrmi (k : BitVec 7) (s : State) : Res State :=
  branchIf s.sreg.n k s

/-- BRPL k: taken when N = 0 (R171). -/
def execBrpl (k : BitVec 7) (s : State) : Res State :=
  branchIf (!s.sreg.n) k s

/-- BRLT k: taken when S = 1, the stored flag (R172). -/
def execBrlt (k : BitVec 7) (s : State) : Res State :=
  branchIf s.sreg.s k s

/-- BRGE k: taken when S = 0, the stored flag (R173). -/
def execBrge (k : BitVec 7) (s : State) : Res State :=
  branchIf (!s.sreg.s) k s


end Sys2Proof.Machine
end

