-- ==== Sys2Proof/Machine/DataTransfer.lean ====
section
/-! DEFINITION. The data transfer instructions of 43_data_transfer.md (R180 to R211), one meaning each. None writes a flag,
but for a write that reaches SREG as an I/O location of a user-supplied map (R28, R202). -/

namespace Sys2Proof.Machine

/-- LD Rd,X: X is unchanged, unless Rd is a half of it (R184). -/
def execLdX (d : Reg) (s : State) : Res State :=
  loadByte d (addrX s) id s

/-- LD Rd,X+ (R185; log entry 14 for RAMPX). -/
def execLdXInc (d : Reg) (s : State) : Res State :=
  unlessConflict (isHalfOfX d) <|
    loadByte d (addrX s) (fun t => t.setWideX (ptrInc s.dev (addrX s))) s

/-- LD Rd,-X (R186; log entry 14 for RAMPX). -/
def execLdDecX (d : Reg) (s : State) : Res State :=
  unlessConflict (isHalfOfX d) <|
    loadByte d (addrDecX s) (fun t => t.setWideX (addrDecX s)) s

/-- ST Z,Rr (R188). -/
def execStZ (r : Reg) (s : State) : Res State :=
  storeByte r (addrZ s) id s

/-- ST Z+,Rr (R189; log entry 14 for RAMPZ). -/
def execStZInc (r : Reg) (s : State) : Res State :=
  unlessConflict (isHalfOfZ r) <|
    storeByte r (addrZ s) (fun t => t.setWideZ (ptrInc s.dev (addrZ s))) s

/-- ST -Z,Rr (R190; log entry 14 for RAMPZ). -/
def execStDecZ (r : Reg) (s : State) : Res State :=
  unlessConflict (isHalfOfZ r) <|
    storeByte r (addrDecZ s) (fun t => t.setWideZ (addrDecZ s)) s

/-- STD Z+q,Rr; with q not 0 it is absent on `AVRrc` (R191, R192). -/
def execStdZ (q : BitVec 6) (r : Reg) (s : State) : Res State :=
  requires (Device.offersStd s.dev q) (storeByte r (addrZq s q) id s)

/-- ELPM: `R0 <- (RAMPZ:Z)` (R193; log entry 14). -/
def execElpm (s : State) : Res State :=
  requires (Device.offersElpm s.dev) (loadProgByte 0 (addrZ s) id s)

/-- ELPM Rd,Z: `Rd <- (RAMPZ:Z)` (R194; log entry 14). -/
def execElpmZ (d : Reg) (s : State) : Res State :=
  requires (Device.offersElpm s.dev) (loadProgByte d (addrZ s) id s)

/-- ELPM Rd,Z+: `Rd <- (RAMPZ:Z), (RAMPZ:Z) <- (RAMPZ:Z) + 1` (R195; log entries 14, 20). -/
def execElpmZInc (d : Reg) (s : State) : Res State :=
  requires (Device.offersElpm s.dev) <| unlessConflict (isHalfOfZ d) <|
    loadProgByte d (addrZ s) (fun t => t.setWideZ (ptrInc s.dev (addrZ s))) s

/-- LPM Rd,Z+: Z alone, without RAMPZ (R196). -/
def execLpmZInc (d : Reg) (s : State) : Res State :=
  requires (Device.offersLpm s.dev) <| unlessConflict (isHalfOfZ d) <|
    loadProgByte d s.ptrZ.toNat (fun t => t.setPtrZ (s.ptrZ + 1)) s

/-- SPM: `(RAMPZ:Z) <- R1:R0` (R199; log entry 15). -/
def execSpm (s : State) : Res State :=
  requires (Device.offersSpm s.dev) (storeProgWord id s)

/-- SPM Z+: `(RAMPZ:Z) <- R1:R0, Z <- Z + 2` (R200; log entry 15). -/
def execSpmZInc (s : State) : Res State :=
  requires (Device.offersSpm s.dev) <|
    storeProgWord (fun t => t.setPtrZ (s.ptrZ + 2)) s

/-- IN Rd,A (R201; log entry 11). -/
def execIn (d : Reg) (A : BitVec 6) (s : State) : Res State :=
  andThen (s.ioRead A.toNat) fun (v, s1) => .next (s1.setReg d v).advance

/-- OUT A,Rr (R202; log entry 11). -/
def execOut (A : BitVec 6) (r : Reg) (s : State) : Res State :=
  andThen (s.ioWrite A.toNat (s.reg r)) fun s1 => .next s1.advance

/-- PUSH Rr: store at the address SP holds, then decrement (R205; log entry 19). -/
def execPush (r : Reg) (s : State) : Res State :=
  if s.sp = 0 then .fault .spUnderflow
  else storeByte r s.sp.toNat (fun t => { t with sp := s.sp - 1 }) s

/-- POP Rd: increment first, in integers, then load (R206); SP keeps 16 bits (log entry 7). -/
def execPop (d : Reg) (s : State) : Res State :=
  let a := s.sp.toNat + 1
  loadByte d a (fun t => { t with sp := BitVec.ofNat 16 a }) s

/-- XCH Z,Rd; on `AVRxm` only (R207, R7; log entry 14 for RAMPZ). -/
def execXch (d : Reg) (s : State) : Res State :=
  requires (Device.isXm s.dev) (readModifyWrite (fun x _ => x) d s)

/-- LAS Z,Rd; on `AVRxm` only (R208, R7; log entry 14 for RAMPZ). -/
def execLas (d : Reg) (s : State) : Res State :=
  requires (Device.isXm s.dev) (readModifyWrite (fun x m => x ||| m) d s)

/-- LAC Z,Rd; on `AVRxm` only (R209, R7; log entry 14 for RAMPZ). -/
def execLac (d : Reg) (s : State) : Res State :=
  requires (Device.isXm s.dev) (readModifyWrite (fun x m => ~~~x &&& m) d s)

/-- LAT Z,Rd; on `AVRxm` only (R210, R7; log entry 14 for RAMPZ). -/
def execLat (d : Reg) (s : State) : Res State :=
  requires (Device.isXm s.dev) (readModifyWrite (fun x m => x ^^^ m) d s)


end Sys2Proof.Machine
end

