-- ==== Sys2Proof/Machine/McuControl.lean ====
section
/-! DEFINITION. The MCU control instructions of 45_mcu_control.md (R240 to R243), one meaning each. -/

namespace Sys2Proof.Machine

/-- NOP (R240). -/
def execNop (s : State) : Res State :=
  .next s.advance

/-- WDR: `pc <- pc + 1` and no other change, under the premise that no watchdog acts (R243; log entry 25). -/
def execWdr (s : State) : Res State :=
  .next s.advance

/-- BREAK: refused on every device, its effect is in a debug interface description outside the source
(R241, R300; log entry 26). -/
def execBreak (_s : State) : Res State :=
  .refused .unavailableInstruction

/-- SLEEP: refused on every device, its effect is in a power management description outside the source
(R242, R300; log entry 26). -/
def execSleep (_s : State) : Res State :=
  .refused .unavailableInstruction


end Sys2Proof.Machine
end

