-- ==== Sys2Proof/Machine/Multiply.lean ====
section
/-! DEFINITION. The multiply instructions of 41_multiply.md (R140 to R151), one meaning each. The operands are read from
the state before R1:R0 is written (R13, R140). -/

namespace Sys2Proof.Machine

/-- FMULSU Rd,Rr: signed x unsigned, shifted left one place (R141). -/
def execFmulsu (d r : Reg) (s : State) : Res State :=
  requires (Device.offersMul s.dev) (.next (mulWrite (productSU (s.reg d) (s.reg r)) true s).advance)

/-- MUL Rd,Rr: unsigned x unsigned (R146). -/
def execMul (d r : Reg) (s : State) : Res State :=
  requires (Device.offersMul s.dev) (.next (mulWrite (productUU (s.reg d) (s.reg r)) false s).advance)

/-- MULS Rd,Rr: signed x signed (R147). -/
def execMuls (d r : Reg) (s : State) : Res State :=
  requires (Device.offersMul s.dev) (.next (mulWrite (productSS (s.reg d) (s.reg r)) false s).advance)

/-- MULSU Rd,Rr: signed x unsigned (R148). -/
def execMulsu (d r : Reg) (s : State) : Res State :=
  requires (Device.offersMul s.dev) (.next (mulWrite (productSU (s.reg d) (s.reg r)) false s).advance)

/-- FMUL Rd,Rr: unsigned x unsigned, shifted left one place (R149). -/
def execFmul (d r : Reg) (s : State) : Res State :=
  requires (Device.offersMul s.dev) (.next (mulWrite (productUU (s.reg d) (s.reg r)) true s).advance)

/-- FMULS Rd,Rr: signed x signed, shifted left one place (R150). -/
def execFmuls (d r : Reg) (s : State) : Res State :=
  requires (Device.offersMul s.dev) (.next (mulWrite (productSS (s.reg d) (s.reg r)) true s).advance)


end Sys2Proof.Machine
end

