-- ==== Sys2Proof/Machine/ShiftBit.lean ====
section
/-! DEFINITION. The shift, bit and flag instructions of 44_shift_bit.md (R220 to R236), one meaning each. -/

namespace Sys2Proof.Machine

/-- ASR Rd: bit 7 kept, bits 6:0 from old bits 7:1, bit 0 to C (R220). -/
def execAsr (d : Reg) (s : State) : Res State :=
  let a := s.reg d
  let R : Byte := a.extractLsb' 7 1 ++ a.extractLsb' 1 7
  writeResult d R (shiftFlags (a.getLsbD 0) R s.sreg) s

/-- LSR Rd: bit 7 cleared, bit 0 to C (R224). -/
def execLsr (d : Reg) (s : State) : Res State :=
  let a := s.reg d
  let R : Byte := 0#1 ++ a.extractLsb' 1 7
  writeResult d R (shiftFlags (a.getLsbD 0) R s.sreg) s

/-- LSL Rd: bit 0 cleared, bit 7 to C, bit 3 to H (R221). -/
def execLsl (d : Reg) (s : State) : Res State :=
  let a := s.reg d
  let R : Byte := a.extractLsb' 0 7 ++ 0#1
  writeResult d R (lslFlags a R s.sreg) s

/-- BSET s: one flag set, no other changed (R227). -/
def execBset (f : Flag) (s : State) : Res State :=
  .next (s.setSreg (s.sreg.set f true)).advance

/-- BCLR s: one flag cleared, no other changed (R228). -/
def execBclr (f : Flag) (s : State) : Res State :=
  .next (s.setSreg (s.sreg.set f false)).advance

/-- SEH: `SREG.H <- 1` (R225). -/
def execSeh (s : State) : Res State :=
  .next { s with sreg := { s.sreg with h := true } }.advance

/-- CLH: `SREG.H <- 0` (R226). -/
def execClh (s : State) : Res State :=
  .next { s with sreg := { s.sreg with h := false } }.advance

/-- SEC: `SREG.C <- 1` (R229). -/
def execSec (s : State) : Res State :=
  .next { s with sreg := { s.sreg with c := true } }.advance

/-- SEZ: `SREG.Z <- 1` (R230). -/
def execSez (s : State) : Res State :=
  .next { s with sreg := { s.sreg with z := true } }.advance

/-- SEN: `SREG.N <- 1`; S is not recomputed (R231). -/
def execSen (s : State) : Res State :=
  .next { s with sreg := { s.sreg with n := true } }.advance

/-- SEV: `SREG.V <- 1`; S is not recomputed (R232). -/
def execSev (s : State) : Res State :=
  .next { s with sreg := { s.sreg with v := true } }.advance

/-- SES: `SREG.S <- 1`, whatever N and V are (R233). -/
def execSes (s : State) : Res State :=
  .next { s with sreg := { s.sreg with s := true } }.advance

/-- SET: `SREG.T <- 1` (R234). -/
def execSet (s : State) : Res State :=
  .next { s with sreg := { s.sreg with t := true } }.advance

/-- SEI: `SREG.I <- 1`; nothing else follows (log entry 23) (R235). -/
def execSei (s : State) : Res State :=
  .next { s with sreg := { s.sreg with i := true } }.advance

/-- CLC: `SREG.C <- 0` (R236). -/
def execClc (s : State) : Res State :=
  .next { s with sreg := { s.sreg with c := false } }.advance


end Sys2Proof.Machine
end

