-- ==== Sys2Proof/Machine/Supplement.lean ====
section
/-! DEFINITION. The supplement instructions of 46_supplement.md (R250 to R257), one meaning each. -/

namespace Sys2Proof.Machine

/-- The carry as a byte, 0 or 1: the carry-in of ADC and SBC (R251, R253). -/
def carryIn (s : State) : Byte := if s.sreg.c then 1 else 0

/-- ADD Rd,Rr (R250). -/
def execAdd (d r : Reg) (s : State) : Res State :=
  let R := s.reg d + s.reg r
  writeResult d R (addFlags (s.reg d) (s.reg r) R s.sreg) s

/-- ADC Rd,Rr (R251). -/
def execAdc (d r : Reg) (s : State) : Res State :=
  let R := s.reg d + s.reg r + carryIn s
  writeResult d R (addFlags (s.reg d) (s.reg r) R s.sreg) s

/-- SUB Rd,Rr (R252). -/
def execSub (d r : Reg) (s : State) : Res State :=
  let R := s.reg d - s.reg r
  writeResult d R (subFlags (s.reg d) (s.reg r) R s.sreg) s

/-- SBC Rd,Rr: Z is cleared or kept, never set (R253). -/
def execSbc (d r : Reg) (s : State) : Res State :=
  let R := s.reg d - s.reg r - carryIn s
  writeResult d R (sbcFlags (s.reg d) (s.reg r) R s.sreg) s

/-- CPI Rd,K: Rd is not written (R254). -/
def execCpi (d : Reg) (K : Byte) (s : State) : Res State :=
  let R := s.reg d - K
  .next (s.setSreg (subFlags (s.reg d) K R s.sreg)).advance

/-- LDI Rd,K (R255). -/
def execLdi (d : Reg) (K : Byte) (s : State) : Res State :=
  .next (s.setReg d K).advance

/-- MOV Rd,Rr (R256). -/
def execMov (d r : Reg) (s : State) : Res State :=
  .next (s.setReg d (s.reg r)).advance

/-- MOVW Rd+1:Rd,Rr+1:Rr: both reads before both writes (R257; log entry 16). -/
def execMovw (d r : Reg) (s : State) : Res State :=
  requires (Device.offersMovw s.dev) (.next (s.setPair (d + 1) d (s.pair (r + 1) r)).advance)


end Sys2Proof.Machine
end

