-- ==== Sys2Proof/Machine/Dispatch.lean ====
section
/-! DEFINITION. The dispatch: one arm per constructor of `Instr`, each one call of the instruction's meaning. -/

namespace Sys2Proof.Machine

/-- The meaning of an instruction at a state. -/
def exec (i : Instr) (s : State) : Host.Outcome State Fault Refusal :=
  match i with
  | .and d r => Sys2Proof.Machine.execAnd d r s
  | .inc d => Sys2Proof.Machine.execInc d s
  | .neg d => Sys2Proof.Machine.execNeg d s
  | .andi d K => Sys2Proof.Machine.execAndi d K s
  | .or d r => Sys2Proof.Machine.execOr d r s
  | .ori d K => Sys2Proof.Machine.execOri d K s
  | .eor d r => Sys2Proof.Machine.execEor d r s
  | .com d => Sys2Proof.Machine.execCom d s
  | .dec d => Sys2Proof.Machine.execDec d s
  | .des K => Sys2Proof.Machine.execDes K s
  | .sbr d K => Sys2Proof.Machine.execSbr d K s
  | .cbr d K => Sys2Proof.Machine.execCbr d K s
  | .tst d => Sys2Proof.Machine.execTst d s
  | .clr d => Sys2Proof.Machine.execClr d s
  | .ser d => Sys2Proof.Machine.execSer d s
  | .fmulsu d r => Sys2Proof.Machine.execFmulsu d r s
  | .mul d r => Sys2Proof.Machine.execMul d r s
  | .muls d r => Sys2Proof.Machine.execMuls d r s
  | .mulsu d r => Sys2Proof.Machine.execMulsu d r s
  | .fmul d r => Sys2Proof.Machine.execFmul d r s
  | .fmuls d r => Sys2Proof.Machine.execFmuls d r s
  | .rjmp k => Sys2Proof.Machine.execRjmp k s
  | .ijmp => Sys2Proof.Machine.execIjmp s
  | .brbs f k => Sys2Proof.Machine.execBrbs f k s
  | .brbc f k => Sys2Proof.Machine.execBrbc f k s
  | .breq k => Sys2Proof.Machine.execBreq k s
  | .brne k => Sys2Proof.Machine.execBrne k s
  | .brcs k => Sys2Proof.Machine.execBrcs k s
  | .brlo k => Sys2Proof.Machine.execBrlo k s
  | .brcc k => Sys2Proof.Machine.execBrcc k s
  | .brsh k => Sys2Proof.Machine.execBrsh k s
  | .brmi k => Sys2Proof.Machine.execBrmi k s
  | .brpl k => Sys2Proof.Machine.execBrpl k s
  | .brlt k => Sys2Proof.Machine.execBrlt k s
  | .brge k => Sys2Proof.Machine.execBrge k s
  | .ldX d => Sys2Proof.Machine.execLdX d s
  | .ldXInc d => Sys2Proof.Machine.execLdXInc d s
  | .ldDecX d => Sys2Proof.Machine.execLdDecX d s
  | .stZInc r => Sys2Proof.Machine.execStZInc r s
  | .stDecZ r => Sys2Proof.Machine.execStDecZ r s
  | .stdZ q r => Sys2Proof.Machine.execStdZ q r s
  | .elpm => Sys2Proof.Machine.execElpm s
  | .elpmZ d => Sys2Proof.Machine.execElpmZ d s
  | .elpmZInc d => Sys2Proof.Machine.execElpmZInc d s
  | .lpmZInc d => Sys2Proof.Machine.execLpmZInc d s
  | .spm => Sys2Proof.Machine.execSpm s
  | .spmZInc => Sys2Proof.Machine.execSpmZInc s
  | .ioIn d A => Sys2Proof.Machine.execIn d A s
  | .ioOut A r => Sys2Proof.Machine.execOut A r s
  | .push r => Sys2Proof.Machine.execPush r s
  | .pop d => Sys2Proof.Machine.execPop d s
  | .xch d => Sys2Proof.Machine.execXch d s
  | .las d => Sys2Proof.Machine.execLas d s
  | .lac d => Sys2Proof.Machine.execLac d s
  | .lat d => Sys2Proof.Machine.execLat d s
  | .stZ r => Sys2Proof.Machine.execStZ r s
  | .asr d => Sys2Proof.Machine.execAsr d s
  | .lsr d => Sys2Proof.Machine.execLsr d s
  | .bset f => Sys2Proof.Machine.execBset f s
  | .bclr f => Sys2Proof.Machine.execBclr f s
  | .lsl d => Sys2Proof.Machine.execLsl d s
  | .seh => Sys2Proof.Machine.execSeh s
  | .clh => Sys2Proof.Machine.execClh s
  | .sec => Sys2Proof.Machine.execSec s
  | .sez => Sys2Proof.Machine.execSez s
  | .sen => Sys2Proof.Machine.execSen s
  | .sev => Sys2Proof.Machine.execSev s
  | .ses => Sys2Proof.Machine.execSes s
  | .setT => Sys2Proof.Machine.execSet s
  | .sei => Sys2Proof.Machine.execSei s
  | .clc => Sys2Proof.Machine.execClc s
  | .nop => Sys2Proof.Machine.execNop s
  | .brk => Sys2Proof.Machine.execBreak s
  | .sleep => Sys2Proof.Machine.execSleep s
  | .wdr => Sys2Proof.Machine.execWdr s
  | .add d r => Sys2Proof.Machine.execAdd d r s
  | .adc d r => Sys2Proof.Machine.execAdc d r s
  | .sub d r => Sys2Proof.Machine.execSub d r s
  | .sbc d r => Sys2Proof.Machine.execSbc d r s
  | .cpi d K => Sys2Proof.Machine.execCpi d K s
  | .ldi d K => Sys2Proof.Machine.execLdi d K s
  | .mov d r => Sys2Proof.Machine.execMov d r s
  | .movw d r => Sys2Proof.Machine.execMovw d r s

end Sys2Proof.Machine
end

