-- ==== Sys2Proof/Machine/Fetch.lean ====
section
/-! DEFINITION. Fetching and decoding the word at pc (42_branch.md R176; 30_encoding.md R91), and placing one. -/

namespace Sys2Proof.Machine

/-- The word at pc: refused at END_PC, where the run has ended, and above FLASHEND (R176). -/
def fetch (s : State) : Res Word :=
  if s.dev.endPc = some s.pc then .refused .runEnded else s.progWord s.pc .fetchOutOfRange

/-- The instruction of a fetched word, or `refuse(unknown_word)` (R91). -/
def decodeFetched (w : Word) : Res Instr :=
  match decode w with
  | .ok i => .next i
  | .error .unknownWord => .refused .unknownWord

/-- The 16-bit word that a table row's bits are: every instruction is one word (R80). -/
def tableWord (nbits w : Nat) : Word := BitVec.ofNat 16 (w % 2 ^ nbits)

/-- A word is placed in program memory at pc. -/
def placeWord (s : State) (w : Word) : State := { s with prog := Memory.write s.prog s.pc w }

end Sys2Proof.Machine
end

