-- ==== Sys2Proof/Machine/Step.lean ====
section
/-! DEFINITION. One step: fetch at pc, decode, and the instruction's meaning (10_state.md R20; 42_branch.md R176). -/

namespace Sys2Proof.Machine

/-- At END_PC the run has ended and no step is taken; otherwise the word at pc is fetched and decoded, and the
instruction's rule is applied (R176, R336). -/
def step (s : State) : Host.Outcome State Fault Refusal :=
  andThen (fetch s) fun w => andThen (decodeFetched w) fun i => exec i s

/-- `s` with the bits `w` of an instruction of `nbits` bits placed at the program word `pc` names, where the next
step fetches (log entry 10). It stands for the load of a program from outside (R333). -/
def State.withFetchWord (s : State) (nbits w : Nat) : State := placeWord s (tableWord nbits w)

end Sys2Proof.Machine
end

