-- ==== Sys2Proof/Safety.lean ====
section
/-! DEFINITION. The terms the statements use: the state invariant, what a step may write, and what a run that never
stops is. -/

namespace Sys2Proof.Machine

-- The invariant

/-- What every step keeps: the parameters are as the spec bounds them (R8, R191); both memories are in canonical form
and list only what exists, SRAM bytes (R54) and words up to FLASHEND (R52); SP has `SP_BITS` bits (R10); and pc is
no further than one jump beyond FLASHEND, or where IJMP can reach (R25, R160, R161). -/
def State.Inv (s : State) : Bool :=
  s.dev.WellFormed && Memory.wf s.mem && s.mem.all (fun e => Device.classify s.dev e.1 == .sram) &&
    Memory.wf s.prog && s.prog.all (fun e => e.1 ≤ s.dev.flashend) && s.sp.toNat < 2 ^ s.dev.spBits &&
    s.pc ≤ max (s.dev.flashend + 2048) 0xFFFF

-- What an instruction may write

/-- The flags an instruction writes (10_state.md R28; R222, R227, R228 and R250 to R254 for the rows R28 leaves out). -/
def flagsWritten : Instr → List Flag
  | .and _ _ => [.n, .v, .z, .s]
  | .inc _ => [.n, .v, .z, .s]
  | .neg _ => [.n, .v, .z, .s, .c, .h]
  | .andi _ _ => [.n, .v, .z, .s]
  | .or _ _ => [.n, .v, .z, .s]
  | .ori _ _ => [.n, .v, .z, .s]
  | .eor _ _ => [.n, .v, .z, .s]
  | .com _ => [.n, .v, .z, .s, .c]
  | .dec _ => [.n, .v, .z, .s]
  | .des _ => []
  | .sbr _ _ => [.n, .v, .z, .s]
  | .cbr _ _ => [.n, .v, .z, .s]
  | .tst _ => [.n, .v, .z, .s]
  | .clr _ => [.n, .v, .z, .s]
  | .ser _ => []
  | .fmulsu _ _ => [.z, .c]
  | .mul _ _ => [.z, .c]
  | .muls _ _ => [.z, .c]
  | .mulsu _ _ => [.z, .c]
  | .fmul _ _ => [.z, .c]
  | .fmuls _ _ => [.z, .c]
  | .rjmp _ => []
  | .ijmp => []
  | .brbs _ _ => []
  | .brbc _ _ => []
  | .breq _ => []
  | .brne _ => []
  | .brcs _ => []
  | .brlo _ => []
  | .brcc _ => []
  | .brsh _ => []
  | .brmi _ => []
  | .brpl _ => []
  | .brlt _ => []
  | .brge _ => []
  | .ldX _ => []
  | .ldXInc _ => []
  | .ldDecX _ => []
  | .stZInc _ => []
  | .stDecZ _ => []
  | .stdZ _ _ => []
  | .elpm => []
  | .elpmZ _ => []
  | .elpmZInc _ => []
  | .lpmZInc _ => []
  | .spm => []
  | .spmZInc => []
  | .ioIn _ _ => []
  | .ioOut _ _ => []
  | .push _ => []
  | .pop _ => []
  | .xch _ => []
  | .las _ => []
  | .lac _ => []
  | .lat _ => []
  | .stZ _ => []
  | .asr _ => [.n, .v, .z, .s, .c]
  | .lsr _ => [.n, .v, .z, .s, .c]
  | .bset f => [f]
  | .bclr f => [f]
  | .lsl _ => [.n, .v, .z, .s, .c, .h]
  | .seh => [.h]
  | .clh => [.h]
  | .sec => [.c]
  | .sez => [.z]
  | .sen => [.n]
  | .sev => [.v]
  | .ses => [.s]
  | .setT => [.t]
  | .sei => [.i]
  | .clc => [.c]
  | .nop => []
  | .brk => []
  | .sleep => []
  | .wdr => []
  | .add _ _ => [.n, .v, .z, .s, .c, .h]
  | .adc _ _ => [.n, .v, .z, .s, .c, .h]
  | .sub _ _ => [.n, .v, .z, .s, .c, .h]
  | .sbc _ _ => [.n, .v, .z, .s, .c, .h]
  | .cpi _ _ => [.n, .v, .z, .s, .c, .h]
  | .ldi _ _ => []
  | .mov _ _ => []
  | .movw _ _ => []

/-- The branch instructions (42_branch.md); every other instruction ends with `pc <- pc + 1` (R175). -/
def isBranch : Instr → Bool
  | .and _ _ => false
  | .inc _ => false
  | .neg _ => false
  | .andi _ _ => false
  | .or _ _ => false
  | .ori _ _ => false
  | .eor _ _ => false
  | .com _ => false
  | .dec _ => false
  | .des _ => false
  | .sbr _ _ => false
  | .cbr _ _ => false
  | .tst _ => false
  | .clr _ => false
  | .ser _ => false
  | .fmulsu _ _ => false
  | .mul _ _ => false
  | .muls _ _ => false
  | .mulsu _ _ => false
  | .fmul _ _ => false
  | .fmuls _ _ => false
  | .rjmp _ => true
  | .ijmp => true
  | .brbs _ _ => true
  | .brbc _ _ => true
  | .breq _ => true
  | .brne _ => true
  | .brcs _ => true
  | .brlo _ => true
  | .brcc _ => true
  | .brsh _ => true
  | .brmi _ => true
  | .brpl _ => true
  | .brlt _ => true
  | .brge _ => true
  | .ldX _ => false
  | .ldXInc _ => false
  | .ldDecX _ => false
  | .stZInc _ => false
  | .stDecZ _ => false
  | .stdZ _ _ => false
  | .elpm => false
  | .elpmZ _ => false
  | .elpmZInc _ => false
  | .lpmZInc _ => false
  | .spm => false
  | .spmZInc => false
  | .ioIn _ _ => false
  | .ioOut _ _ => false
  | .push _ => false
  | .pop _ => false
  | .xch _ => false
  | .las _ => false
  | .lac _ => false
  | .lat _ => false
  | .stZ _ => false
  | .asr _ => false
  | .lsr _ => false
  | .bset _ => false
  | .bclr _ => false
  | .lsl _ => false
  | .seh => false
  | .clh => false
  | .sec => false
  | .sez => false
  | .sen => false
  | .sev => false
  | .ses => false
  | .setT => false
  | .sei => false
  | .clc => false
  | .nop => false
  | .brk => false
  | .sleep => false
  | .wdr => false
  | .add _ _ => false
  | .adc _ _ => false
  | .sub _ _ => false
  | .sbc _ _ => false
  | .cpi _ _ => false
  | .ldi _ _ => false
  | .mov _ _ => false
  | .movw _ _ => false

/-- The data-space address an instruction stores a byte to, computed as its meaning computes it (R55, R184 to R191, R205,
R207 to R210); `none` for an instruction that stores nothing. -/
def storesAt : Instr → State → Option Nat
  | .and _ _ => fun _ => none
  | .inc _ => fun _ => none
  | .neg _ => fun _ => none
  | .andi _ _ => fun _ => none
  | .or _ _ => fun _ => none
  | .ori _ _ => fun _ => none
  | .eor _ _ => fun _ => none
  | .com _ => fun _ => none
  | .dec _ => fun _ => none
  | .des _ => fun _ => none
  | .sbr _ _ => fun _ => none
  | .cbr _ _ => fun _ => none
  | .tst _ => fun _ => none
  | .clr _ => fun _ => none
  | .ser _ => fun _ => none
  | .fmulsu _ _ => fun _ => none
  | .mul _ _ => fun _ => none
  | .muls _ _ => fun _ => none
  | .mulsu _ _ => fun _ => none
  | .fmul _ _ => fun _ => none
  | .fmuls _ _ => fun _ => none
  | .rjmp _ => fun _ => none
  | .ijmp => fun _ => none
  | .brbs _ _ => fun _ => none
  | .brbc _ _ => fun _ => none
  | .breq _ => fun _ => none
  | .brne _ => fun _ => none
  | .brcs _ => fun _ => none
  | .brlo _ => fun _ => none
  | .brcc _ => fun _ => none
  | .brsh _ => fun _ => none
  | .brmi _ => fun _ => none
  | .brpl _ => fun _ => none
  | .brlt _ => fun _ => none
  | .brge _ => fun _ => none
  | .ldX _ => fun _ => none
  | .ldXInc _ => fun _ => none
  | .ldDecX _ => fun _ => none
  | .stZInc _ => fun s => some (addrZ s)
  | .stDecZ _ => fun s => some (addrDecZ s)
  | .stdZ q _ => fun s => some (addrZq s q)
  | .elpm => fun _ => none
  | .elpmZ _ => fun _ => none
  | .elpmZInc _ => fun _ => none
  | .lpmZInc _ => fun _ => none
  | .spm => fun _ => none
  | .spmZInc => fun _ => none
  | .ioIn _ _ => fun _ => none
  | .ioOut _ _ => fun _ => none
  | .push _ => fun s => some s.sp.toNat
  | .pop _ => fun _ => none
  | .xch _ => fun s => some (addrZ s)
  | .las _ => fun s => some (addrZ s)
  | .lac _ => fun s => some (addrZ s)
  | .lat _ => fun s => some (addrZ s)
  | .stZ _ => fun s => some (addrZ s)
  | .asr _ => fun _ => none
  | .lsr _ => fun _ => none
  | .bset _ => fun _ => none
  | .bclr _ => fun _ => none
  | .lsl _ => fun _ => none
  | .seh => fun _ => none
  | .clh => fun _ => none
  | .sec => fun _ => none
  | .sez => fun _ => none
  | .sen => fun _ => none
  | .sev => fun _ => none
  | .ses => fun _ => none
  | .setT => fun _ => none
  | .sei => fun _ => none
  | .clc => fun _ => none
  | .nop => fun _ => none
  | .brk => fun _ => none
  | .sleep => fun _ => none
  | .wdr => fun _ => none
  | .add _ _ => fun _ => none
  | .adc _ _ => fun _ => none
  | .sub _ _ => fun _ => none
  | .sbc _ _ => fun _ => none
  | .cpi _ _ => fun _ => none
  | .ldi _ _ => fun _ => none
  | .mov _ _ => fun _ => none
  | .movw _ _ => fun _ => none

/-- The data-space address a plain load reads (R184 to R186, R206); `none` for every other instruction. -/
def loadsFrom : Instr → State → Option Nat
  | .and _ _ => fun _ => none
  | .inc _ => fun _ => none
  | .neg _ => fun _ => none
  | .andi _ _ => fun _ => none
  | .or _ _ => fun _ => none
  | .ori _ _ => fun _ => none
  | .eor _ _ => fun _ => none
  | .com _ => fun _ => none
  | .dec _ => fun _ => none
  | .des _ => fun _ => none
  | .sbr _ _ => fun _ => none
  | .cbr _ _ => fun _ => none
  | .tst _ => fun _ => none
  | .clr _ => fun _ => none
  | .ser _ => fun _ => none
  | .fmulsu _ _ => fun _ => none
  | .mul _ _ => fun _ => none
  | .muls _ _ => fun _ => none
  | .mulsu _ _ => fun _ => none
  | .fmul _ _ => fun _ => none
  | .fmuls _ _ => fun _ => none
  | .rjmp _ => fun _ => none
  | .ijmp => fun _ => none
  | .brbs _ _ => fun _ => none
  | .brbc _ _ => fun _ => none
  | .breq _ => fun _ => none
  | .brne _ => fun _ => none
  | .brcs _ => fun _ => none
  | .brlo _ => fun _ => none
  | .brcc _ => fun _ => none
  | .brsh _ => fun _ => none
  | .brmi _ => fun _ => none
  | .brpl _ => fun _ => none
  | .brlt _ => fun _ => none
  | .brge _ => fun _ => none
  | .ldX _ => fun s => some (addrX s)
  | .ldXInc _ => fun s => some (addrX s)
  | .ldDecX _ => fun s => some (addrDecX s)
  | .stZInc _ => fun _ => none
  | .stDecZ _ => fun _ => none
  | .stdZ _ _ => fun _ => none
  | .elpm => fun _ => none
  | .elpmZ _ => fun _ => none
  | .elpmZInc _ => fun _ => none
  | .lpmZInc _ => fun _ => none
  | .spm => fun _ => none
  | .spmZInc => fun _ => none
  | .ioIn _ _ => fun _ => none
  | .ioOut _ _ => fun _ => none
  | .push _ => fun _ => none
  | .pop _ => fun s => some (s.sp.toNat + 1)
  | .xch _ => fun _ => none
  | .las _ => fun _ => none
  | .lac _ => fun _ => none
  | .lat _ => fun _ => none
  | .stZ _ => fun _ => none
  | .asr _ => fun _ => none
  | .lsr _ => fun _ => none
  | .bset _ => fun _ => none
  | .bclr _ => fun _ => none
  | .lsl _ => fun _ => none
  | .seh => fun _ => none
  | .clh => fun _ => none
  | .sec => fun _ => none
  | .sez => fun _ => none
  | .sen => fun _ => none
  | .sev => fun _ => none
  | .ses => fun _ => none
  | .setT => fun _ => none
  | .sei => fun _ => none
  | .clc => fun _ => none
  | .nop => fun _ => none
  | .brk => fun _ => none
  | .sleep => fun _ => none
  | .wdr => fun _ => none
  | .add _ _ => fun _ => none
  | .adc _ _ => fun _ => none
  | .sub _ _ => fun _ => none
  | .sbc _ _ => fun _ => none
  | .cpi _ _ => fun _ => none
  | .ldi _ _ => fun _ => none
  | .mov _ _ => fun _ => none
  | .movw _ _ => fun _ => none

/-- The registers an instruction writes by its own rule: its destination, and a pointer it updates (R182). -/
def regsNamed : Instr → List Reg
  | .and d _ => [d]
  | .inc d => [d]
  | .neg d => [d]
  | .andi d _ => [d]
  | .or d _ => [d]
  | .ori d _ => [d]
  | .eor d _ => [d]
  | .com d => [d]
  | .dec d => [d]
  | .des _ => [0, 1, 2, 3, 4, 5, 6, 7, 8, 9, 10, 11, 12, 13, 14, 15]
  | .sbr d _ => [d]
  | .cbr d _ => [d]
  | .tst _ => []
  | .clr d => [d]
  | .ser d => [d]
  | .fmulsu _ _ => [0, 1]
  | .mul _ _ => [0, 1]
  | .muls _ _ => [0, 1]
  | .mulsu _ _ => [0, 1]
  | .fmul _ _ => [0, 1]
  | .fmuls _ _ => [0, 1]
  | .rjmp _ => []
  | .ijmp => []
  | .brbs _ _ => []
  | .brbc _ _ => []
  | .breq _ => []
  | .brne _ => []
  | .brcs _ => []
  | .brlo _ => []
  | .brcc _ => []
  | .brsh _ => []
  | .brmi _ => []
  | .brpl _ => []
  | .brlt _ => []
  | .brge _ => []
  | .ldX d => [d]
  | .ldXInc d => [d, 26, 27]
  | .ldDecX d => [d, 26, 27]
  | .stZInc _ => [30, 31]
  | .stDecZ _ => [30, 31]
  | .stdZ _ _ => []
  | .elpm => [0]
  | .elpmZ d => [d]
  | .elpmZInc d => [d, 30, 31]
  | .lpmZInc d => [d, 30, 31]
  | .spm => []
  | .spmZInc => [30, 31]
  | .ioIn d _ => [d]
  | .ioOut _ _ => []
  | .push _ => []
  | .pop d => [d]
  | .xch d => [d]
  | .las d => [d]
  | .lac d => [d]
  | .lat d => [d]
  | .stZ _ => []
  | .asr d => [d]
  | .lsr d => [d]
  | .bset _ => []
  | .bclr _ => []
  | .lsl d => [d]
  | .seh => []
  | .clh => []
  | .sec => []
  | .sez => []
  | .sen => []
  | .sev => []
  | .ses => []
  | .setT => []
  | .sei => []
  | .clc => []
  | .nop => []
  | .brk => []
  | .sleep => []
  | .wdr => []
  | .add d _ => [d]
  | .adc d _ => [d]
  | .sub d _ => [d]
  | .sbc d _ => [d]
  | .cpi _ _ => []
  | .ldi d _ => [d]
  | .mov d _ => [d]
  | .movw d _ => [d, d + 1]

/-- The register that a store through data space reaches, where its address is a register's (R23, R54). -/
def storedReg (i : Instr) (s : State) : List Reg :=
  match storesAt i s with
  | some a => match Device.classify s.dev a with
    | .reg j => [j]
    | .io _ => []
    | .sram => []
    | .progByte _ => []
    | .unmapped => []
  | none => []

/-- The I/O location a data-space address is, if it is one (R56). -/
def ioLocOf (dev : Device) (a : Nat) : Option Nat :=
  match Device.classify dev a with
  | .io loc => some loc
  | .reg _ => none
  | .sram => none
  | .progByte _ => none
  | .unmapped => none

/-- The I/O location an instruction writes: by OUT, or by a store whose address is an I/O location (R35, R57). -/
def ioWriteLoc (i : Instr) (s : State) : Option Nat :=
  match i with
  | .ioOut A _ => some A.toNat
  | j => (storesAt j s).bind (ioLocOf s.dev)

/-- The I/O location an instruction reads: by IN, or by a load whose address is an I/O location (R35, R57). -/
def ioReadLoc (i : Instr) (s : State) : Option Nat :=
  match i with
  | .ioIn _ A => some A.toNat
  | j => (loadsFrom j s).bind (ioLocOf s.dev)

/-- The instruction writes the I/O location where the user-supplied map has port `p`. -/
def writesPort (i : Instr) (s : State) (p : IoPort) : Prop := (ioWriteLoc i s).bind (Device.ioPort s.dev) = some p

/-- The instruction reads the I/O location where the user-supplied map has port `p`. -/
def readsPort (i : Instr) (s : State) (p : IoPort) : Prop := (ioReadLoc i s).bind (Device.ioPort s.dev) = some p

/-- RAMPX, RAMPY, RAMPZ, RAMPD, EIND, the accesses to devices and the parameters are unchanged. -/
def SameSpecial (s t : State) : Prop :=
  t.rampx = s.rampx ∧ t.rampy = s.rampy ∧ t.rampz = s.rampz ∧ t.rampd = s.rampd ∧ t.eind = s.eind ∧
    t.ioLog = s.ioLog ∧ t.dev = s.dev

/-- Every byte of SRAM but the one at `a` reads as before. -/
def SameSramBut (a : Nat) (s t : State) : Prop := ∀ b, b ≠ a → Memory.read t.mem b = Memory.read s.mem b

/-- Both memories are unchanged: every address reads as before. -/
def SameMemories (s t : State) : Prop :=
  (∀ a, Memory.read t.mem a = Memory.read s.mem a) ∧ ∀ w, Memory.read t.prog w = Memory.read s.prog w

/-- All but registers, SREG and pc is unchanged: SP, the special registers and both memories. -/
def SameOutside (s t : State) : Prop := t.sp = s.sp ∧ SameSpecial s t ∧ SameMemories s t

/-- Every register but those listed is unchanged. -/
def SameRegsBut (ds : List Reg) (s t : State) : Prop := ∀ j : Reg, j ∉ ds → t.reg j = s.reg j

/-- Every flag but those listed is unchanged. -/
def SameFlagsBut (fs : List Flag) (s t : State) : Prop := ∀ f : Flag, f ∉ fs → t.sreg.get f = s.sreg.get f

/-- The frame of an instruction that stores nothing: registers but `ds`, flags but `fs`, and all the rest; pc is not
spoken of. -/
def Keeps (ds : List Reg) (fs : List Flag) (s t : State) : Prop :=
  SameRegsBut ds s t ∧ SameFlagsBut fs s t ∧ SameOutside s t

/-- The pointer X, with RAMPX above it where the device has it, moves by `k`, modulo 2^16 or 2^24; a device without RAMPX
leaves it (R31, R60). -/
def MovesX (s t : State) (k : Int) : Prop :=
  (addrX t : Int) = ((addrX s : Int) + k) % (if s.dev.hasRamp then 16777216 else 65536) ∧
    (s.dev.hasRamp = false → t.rampx = s.rampx)

/-- The pointer Z, with RAMPZ above it where the device has it, moves by `k`, as `MovesX` says of X (R31, R60). -/
def MovesZ (s t : State) (k : Int) : Prop :=
  (addrZ t : Int) = ((addrZ s : Int) + k) % (if s.dev.hasRamp then 16777216 else 65536) ∧
    (s.dev.hasRamp = false → t.rampz = s.rampz)

/-- N, Z and S as every instruction that writes them gives them, from the result and the new V (R26). -/
def SignFlags (R : Byte) (t : State) : Prop :=
  t.sreg.n = R.getLsbD 7 ∧ (t.sreg.z = true ↔ R = 0) ∧ t.sreg.s = (t.sreg.n ^^ t.sreg.v)

/-- The instructions that read no flag (R29): all rows but the conditional branches, ADC, SBC and DES; IN and loads
may still read SREG where a user maps it. -/
def readsNoFlag : Instr → Bool
  | .and _ _ => true
  | .inc _ => true
  | .neg _ => true
  | .andi _ _ => true
  | .or _ _ => true
  | .ori _ _ => true
  | .eor _ _ => true
  | .com _ => true
  | .dec _ => true
  | .des _ => false
  | .sbr _ _ => true
  | .cbr _ _ => true
  | .tst _ => true
  | .clr _ => true
  | .ser _ => true
  | .fmulsu _ _ => true
  | .mul _ _ => true
  | .muls _ _ => true
  | .mulsu _ _ => true
  | .fmul _ _ => true
  | .fmuls _ _ => true
  | .rjmp _ => true
  | .ijmp => true
  | .brbs _ _ => false
  | .brbc _ _ => false
  | .breq _ => false
  | .brne _ => false
  | .brcs _ => false
  | .brlo _ => false
  | .brcc _ => false
  | .brsh _ => false
  | .brmi _ => false
  | .brpl _ => false
  | .brlt _ => false
  | .brge _ => false
  | .ldX _ => true
  | .ldXInc _ => true
  | .ldDecX _ => true
  | .stZInc _ => true
  | .stDecZ _ => true
  | .stdZ _ _ => true
  | .elpm => true
  | .elpmZ _ => true
  | .elpmZInc _ => true
  | .lpmZInc _ => true
  | .spm => true
  | .spmZInc => true
  | .ioIn _ _ => true
  | .ioOut _ _ => true
  | .push _ => true
  | .pop _ => true
  | .xch _ => true
  | .las _ => true
  | .lac _ => true
  | .lat _ => true
  | .stZ _ => true
  | .asr _ => true
  | .lsr _ => true
  | .bset _ => true
  | .bclr _ => true
  | .lsl _ => true
  | .seh => true
  | .clh => true
  | .sec => true
  | .sez => true
  | .sen => true
  | .sev => true
  | .ses => true
  | .setT => true
  | .sei => true
  | .clc => true
  | .nop => true
  | .brk => true
  | .sleep => true
  | .wdr => true
  | .add _ _ => true
  | .adc _ _ => false
  | .sub _ _ => true
  | .sbc _ _ => false
  | .cpi _ _ => true
  | .ldi _ _ => true
  | .mov _ _ => true
  | .movw _ _ => true

-- Completion and safe runs

/-- The instruction executes, and the next state has the property `P`. -/
def Gives (i : Instr) (s : State) (P : State → Prop) : Prop := ∃ t, exec i s = .next t ∧ P t

/-- `k` steps from `s` all execute; no fault and no refusal stops the run, not even its end at END_PC (R336). -/
def SafeFor (k : Nat) (s : State) : Prop := ∃ t, core.run k s = .next t

end Sys2Proof.Machine
end

