-- ==== Sys2Proof/Certificates/Slice0/Obligations.lean ====
section
/-! DEFINITION. The statements about the model. Each docstring names the rules of spec/ a statement formalises; where a
clause is the model's own choice it names the log entry. -/

open Sys2Proof Sys2Proof.Machine

-- Encoding (30_encoding.md)

/-- R82, R83, R92: the decoder reads from the word of a well-formed instruction that instruction, or the canonical one
where the instruction is another spelling of its word. No operand bit is dropped. -/
def Obligations.DecodeAfterEncode : Prop :=
  ∀ i : Instr, i.WellFormed = true → decode (encode i) = .ok i.canonical

/-- R82, R83, R90: every word that decodes is the word of what it decodes to, which is well formed and canonical. So no
two words decode to one instruction. -/
def Obligations.EncodeAfterDecode : Prop :=
  ∀ (w : Word) (i : Instr), decode w = .ok i → encode i = w ∧ i.WellFormed = true ∧ i.canonical = i

/-- R89, R90: there are 56 canonical rows, and no word matches two of them. -/
def Obligations.RowsShareNoWord : Prop :=
  opcodeRows.length = 56 ∧ opcodeRows.Pairwise (fun a b => ∀ w : Word, (a.admits w && b.admits w) = false)

/-- Words of 95_test_vectors.md and the instruction pages, one per family, decode to the instruction they stand for. -/
def Obligations.SampleWordsDecode : Prop :=
  decode 0x0389 = .ok (.fmulsu 16 17) ∧ decode 0x2023 = .ok (.and 2 3) ∧ decode 0x9563 = .ok (.inc 22) ∧
  decode 0xF7E9 = .ok (.brbc .z (-3)) ∧ decode 0xAE47 = .ok (.stdZ 63 4) ∧ decode 0x903E = .ok (.ldDecX 3) ∧
  decode 0x9505 = .ok (.asr 16) ∧ decode 0x9458 = .ok (.bset .h) ∧ decode 0x95A8 = .ok .wdr ∧
  decode 0x346F = .ok (.cpi 22 0x4F) ∧ decode 0x0190 = .ok (.movw 18 0) ∧ decode 0xBFCD = .ok (.ioOut 0x3D 28)

/-- R85, and R83 for the format `Io`: a register field of five bits holds the register number. In every instruction of the
formats `RdRr5`, `Rd5`, `LdSt`, `Disp6` and `Io`, a field with value `n` is decoded as `Rn`, with every value of the word's
other fields. -/
def Obligations.FiveBitRegisterFields : Prop :=
  ∀ n m : BitVec 5, (regOfField5 n).val = n.toNat ∧
    (∀ e ∈ [(0b000010#6, Instr.sbc), (0b000011#6, .add), (0b000110#6, .sub), (0b000111#6, .adc), (0b001000#6, .and),
        (0b001001#6, .eor), (0b001010#6, .or), (0b001011#6, .mov), (0b100111#6, .mul)],
      decode (e.1 ++ m.extractLsb' 4 1 ++ n ++ m.extractLsb' 0 4) = .ok (e.2 (regOfField5 n) (regOfField5 m))) ∧
    (∀ e ∈ [(0b0000#4, Instr.com), (0b0001#4, .neg), (0b0011#4, .inc), (0b0101#4, .asr), (0b0110#4, .lsr),
        (0b1010#4, .dec)], decode (0b1001010#7 ++ n ++ e.1) = .ok (e.2 (regOfField5 n))) ∧
    (∀ e ∈ [(0b0101#4, Instr.lpmZInc), (0b0110#4, .elpmZ), (0b0111#4, .elpmZInc), (0b1100#4, .ldX), (0b1101#4, .ldXInc),
        (0b1110#4, .ldDecX), (0b1111#4, .pop)], decode (0b1001000#7 ++ n ++ e.1) = .ok (e.2 (regOfField5 n))) ∧
    (∀ e ∈ [(0b0001#4, Instr.stZInc), (0b0010#4, .stDecZ), (0b0100#4, .xch), (0b0101#4, .las), (0b0110#4, .lac),
        (0b0111#4, .lat), (0b1111#4, .push)], decode (0b1001001#7 ++ n ++ e.1) = .ok (e.2 (regOfField5 n))) ∧
    (∀ q : BitVec 6, decode (0b10#2 ++ q.extractLsb' 5 1 ++ 0b0#1 ++ q.extractLsb' 3 2 ++ 0b1#1 ++ n ++ 0b0#1 ++
      q.extractLsb' 0 3) = .ok (.stdZ q (regOfField5 n))) ∧
    ∀ A : BitVec 6,
      decode (0b10110#5 ++ A.extractLsb' 4 2 ++ n ++ A.extractLsb' 0 4) = .ok (.ioIn (regOfField5 n) A) ∧
      decode (0b10111#5 ++ A.extractLsb' 4 2 ++ n ++ A.extractLsb' 0 4) = .ok (.ioOut A (regOfField5 n))

/-- R87: the displacement of STD Z+q stands in bit 13, bits 11:10 and bits 2:0 of the word, is unsigned, and is added to
the pointer without scaling. -/
def Obligations.DisplacementField : Prop :=
  (∀ (w : Word) (q : BitVec 6) (r : Reg), decode w = .ok (.stdZ q r) →
    q.getLsbD 5 = w.getLsbD 13 ∧ q.getLsbD 4 = w.getLsbD 11 ∧ q.getLsbD 3 = w.getLsbD 10 ∧
    q.getLsbD 2 = w.getLsbD 2 ∧ q.getLsbD 1 = w.getLsbD 1 ∧ q.getLsbD 0 = w.getLsbD 0) ∧
  ∀ (s : State) (q : BitVec 6), q.toNat ≤ 63 ∧ addrZq s q = addrZ s + q.toNat

-- The step

/-- R176, R20: where the run has not ended, pc exists and the word there has been placed, a step runs exactly the
instruction the word decodes to; nothing is done around it. -/
def Obligations.StepRunsDecoded : Prop :=
  ∀ (s : State) (w : Word) (i : Instr), s.dev.endPc ≠ some s.pc → s.pc ≤ s.dev.flashend →
    Memory.read s.prog s.pc = some w → decode w = .ok i → step s = exec i s

/-- R176, R336, R91: at END_PC no step is taken; elsewhere above FLASHEND the fetch is out of range; and a word that matches
no canonical row decodes to nothing, so a step that fetches it is refused as an unknown word. A word that nothing has
placed stops the fetch too (log entry 10, the model's choice). -/
def Obligations.StepStops : Prop :=
  ∀ s : State, (s.dev.endPc = some s.pc → step s = .refused .runEnded) ∧
    (s.dev.endPc ≠ some s.pc → s.dev.flashend < s.pc → step s = .fault .fetchOutOfRange) ∧
    (s.dev.endPc ≠ some s.pc → s.pc ≤ s.dev.flashend → Memory.read s.prog s.pc = none →
      step s = .fault .unwrittenRead) ∧
    (∀ w, s.dev.endPc ≠ some s.pc → s.pc ≤ s.dev.flashend → Memory.read s.prog s.pc = some w →
      (∀ row ∈ opcodeRows, w &&& row.mask ≠ row.pat) →
      decode w = .error .unknownWord ∧ step s = .refused .unknownWord)

/-- The machine after reset: the values R331 offers (pc 0, flags 0, SP at RAMEND; log entries 3 to 5), and for what the spec
leaves unspecified (R37) the model's choices: registers 0 (log entry 2), special registers 0 (log entry 6), no SRAM byte
listed (log entry 9) and no program word listed (log entry 10), on the device of log entry 1. -/
def Obligations.ResetValues : Prop :=
  State.reset.pc = 0 ∧ (∀ f : Flag, State.reset.sreg.get f = false) ∧ State.reset.sp.toNat = State.reset.dev.ramend ∧
    (∀ j : Reg, State.reset.reg j = 0) ∧ State.reset.rampx = 0 ∧ State.reset.rampy = 0 ∧ State.reset.rampz = 0 ∧
    State.reset.rampd = 0 ∧ State.reset.eind = 0 ∧ (∀ a, Memory.read State.reset.mem a = none) ∧
    ∀ w, Memory.read State.reset.prog w = none

-- Invariants

/-- The state after reset has the invariant. -/
def Obligations.ResetHasInvariant : Prop := State.reset.Inv = true

/-- Every step keeps the invariant: the parameters' bounds, both memories in canonical form and listing only what exists,
SP within `SP_BITS`, pc bounded (R8, R10, R25, R52, R54). -/
def Obligations.StepKeepsInvariant : Prop :=
  ∀ s t : State, s.Inv = true → step s = .next t → t.Inv = true

-- Whole-machine rules

/-- R92 with R119 to R124, R164 to R173, R188, R222, R225, R226, R229 to R236: every spelling of a word has one
behaviour. In particular LSL Rd and ADD Rd,Rd are one behaviour. -/
def Obligations.SpellingsBehaveAlike : Prop :=
  ∀ (i : Instr) (s : State), exec i s = exec i.canonical s

/-- R28: an instruction writes no flag but those of its row, unless it writes the I/O location where a user has mapped
SREG. -/
def Obligations.FlagsFrame : Prop :=
  ∀ (i : Instr) (s t : State), exec i s = .next t → ¬ writesPort i s .sreg → SameFlagsBut (flagsWritten i) s t

/-- R26: an instruction that writes S writes N ^ V of the N and V it leaves; only SES, BSET and BCLR set S by itself. -/
def Obligations.SignFlagRule : Prop :=
  ∀ (i : Instr) (s t : State), exec i s = .next t → Flag.s ∈ flagsWritten i →
    i ≠ .ses → i ≠ .bset .s → i ≠ .bclr .s → t.sreg.s = (t.sreg.n ^^ t.sreg.v)

/-- R21, R182: an instruction changes no register but its destination and the pointer it updates, and the register its
store reaches through data space. -/
def Obligations.RegisterFrame : Prop :=
  ∀ (i : Instr) (s t : State), exec i s = .next t → SameRegsBut (regsNamed i ++ storedReg i s) s t

/-- R54, R55: an instruction changes no SRAM byte but the one at the address it stores to, which is computed as its
meaning computes it (log entry 14 for RAMPZ); an instruction that stores nothing changes none. -/
def Obligations.SramFrame : Prop :=
  ∀ (i : Instr) (s t : State), exec i s = .next t → ∀ b, storesAt i s ≠ some b →
    Memory.read t.mem b = Memory.read s.mem b

/-- R30, R31, R32, R66: SP changes by PUSH and POP only, RAMPX by LD Rd,X+ and LD Rd,-X only, RAMPZ by ST Z+, ST -Z and ELPM
Rd,Z+ only, both only on a device that has them (log entry 14), RAMPY, RAMPD and EIND by nothing, program memory by SPM
only, each unless the instruction writes the I/O location where a user has mapped it; a device outside the CPU sees the
accesses to its location only; the parameters never change. -/
def Obligations.SpecialFrame : Prop :=
  ∀ (i : Instr) (s t : State), exec i s = .next t →
    ((∀ r, i ≠ .push r ∧ i ≠ .pop r) → ¬ writesPort i s .spl → ¬ writesPort i s .sph → t.sp = s.sp) ∧
    (s.dev.hasRamp = false ∨ (∀ r, i ≠ .stZInc r ∧ i ≠ .stDecZ r ∧ i ≠ .elpmZInc r) → ¬ writesPort i s .rampz →
      t.rampz = s.rampz) ∧
    (s.dev.hasRamp = false ∨ (∀ d, i ≠ .ldXInc d ∧ i ≠ .ldDecX d) → ¬ writesPort i s .rampx → t.rampx = s.rampx) ∧
    (¬ writesPort i s .rampy → t.rampy = s.rampy) ∧
    (¬ writesPort i s .rampd → t.rampd = s.rampd) ∧ (¬ writesPort i s .eind → t.eind = s.eind) ∧
    (i ≠ .spm → i ≠ .spmZInc → ∀ w, Memory.read t.prog w = Memory.read s.prog w) ∧
    (¬ writesPort i s .device → ¬ readsPort i s .device → t.ioLog = s.ioLog) ∧ t.dev = s.dev

/-- R175: every instruction that is not a branch ends with `pc <- pc + 1`. -/
def Obligations.NextPc : Prop :=
  ∀ (i : Instr) (s t : State), exec i s = .next t → isBranch i = false → t.pc = s.pc + 1

/-- R29: an instruction that reads no flag does the same whatever the flags are: all of the state but SREG becomes the same,
and the flags it writes get the same values, unless it reads or writes SREG where a user has mapped it. -/
def Obligations.FlagIndependence : Prop :=
  ∀ (i : Instr) (s t : State) (u : Sreg), readsNoFlag i = true → ¬ readsPort i s .sreg → ¬ writesPort i s .sreg →
    exec i s = .next t → Gives i (s.setSreg u) fun t' =>
      t'.setSreg t.sreg = t ∧ ∀ f ∈ flagsWritten i, t'.sreg.get f = t.sreg.get f

/-- R63: a read of data space gives what the most recent write to that byte wrote, where the address is SRAM or a
register, and a write of SRAM leaves what is read at every other address. -/
def Obligations.ReadAfterWrite : Prop :=
  ∀ (s t : State) (a : Nat) (v : Byte), s.memWrite a v = .next t →
    (Device.classify s.dev a = .sram ∨ (∃ j, Device.classify s.dev a = .reg j) → t.memRead a = .next (v, t)) ∧
    (Device.classify s.dev a = .sram → ∀ b, b ≠ a → ∀ x, s.memRead b = .next (x, s) → t.memRead b = .next (x, t))

-- Arithmetic and logic (40_arith_logic.md)

/-- R110: the flags of the logic instructions. -/
def Obligations.LogicFlagsRule : Prop :=
  ∀ (R : Byte) (sr : Sreg), (logicFlags R sr).v = false ∧ (logicFlags R sr).n = R.getLsbD 7 ∧
    ((logicFlags R sr).z = true ↔ R = 0x00) ∧
    (logicFlags R sr).s = ((logicFlags R sr).n ^^ (logicFlags R sr).v) ∧ (logicFlags R sr).s = R.getLsbD 7 ∧
    (logicFlags R sr).i = sr.i ∧ (logicFlags R sr).t = sr.t ∧ (logicFlags R sr).h = sr.h ∧ (logicFlags R sr).c = sr.c

/-- R111, R114 to R117, R119, R120, R122, R123: the logic instructions always execute, with each bit of the result the
operation of the operands' bits, V cleared and N, Z, S from the result. TST writes no register. -/
def Obligations.LogicResults : Prop :=
  ∀ (s : State) (d r : Reg) (K : Byte),
    let ends := fun (ds : List Reg) (R : Byte) (t : State) =>
      Keeps ds [.n, .v, .z, .s] s t ∧ t.sreg.v = false ∧ SignFlags R t ∧ t.pc = s.pc + 1
    let bits := fun (t : State) (op : Nat → Bool) => ∀ k < 8, (t.reg d).getLsbD k = op k
    Gives (.and d r) s (fun t =>
      bits t (fun k => (s.reg d).getLsbD k && (s.reg r).getLsbD k) ∧ ends [d] (t.reg d) t) ∧
    Gives (.or d r) s (fun t =>
      bits t (fun k => (s.reg d).getLsbD k || (s.reg r).getLsbD k) ∧ ends [d] (t.reg d) t) ∧
    Gives (.eor d r) s (fun t =>
      bits t (fun k => (s.reg d).getLsbD k ^^ (s.reg r).getLsbD k) ∧ ends [d] (t.reg d) t) ∧
    Gives (.andi d K) s (fun t => bits t (fun k => (s.reg d).getLsbD k && K.getLsbD k) ∧ ends [d] (t.reg d) t) ∧
    Gives (.ori d K) s (fun t => bits t (fun k => (s.reg d).getLsbD k || K.getLsbD k) ∧ ends [d] (t.reg d) t) ∧
    Gives (.sbr d K) s (fun t => bits t (fun k => (s.reg d).getLsbD k || K.getLsbD k) ∧ ends [d] (t.reg d) t) ∧
    Gives (.cbr d K) s (fun t => bits t (fun k => (s.reg d).getLsbD k && !K.getLsbD k) ∧ ends [d] (t.reg d) t) ∧
    Gives (.clr d) s (fun t => bits t (fun _ => false) ∧ ends [d] 0 t) ∧
    Gives (.tst d) s (fun t => ends [] (s.reg d) t)

/-- R112, R121: INC and DEC always execute, modulo 256; V is set exactly where the signed value leaves its range; S is
the sign of the exact signed result; C and H are kept. -/
def Obligations.IncDecResults : Prop :=
  ∀ (s : State) (d : Reg),
    Gives (.inc d) s (fun t => (t.reg d).toNat = ((s.reg d).toNat + 1) % 256 ∧
      (t.sreg.v = true ↔ (s.reg d).toNat = 0x7F) ∧ (t.sreg.s = true ↔ (s.reg d).toInt + 1 < 0) ∧
      SignFlags (t.reg d) t ∧ Keeps [d] [.n, .v, .z, .s] s t ∧ t.pc = s.pc + 1) ∧
    Gives (.dec d) s (fun t => (t.reg d).toNat = ((s.reg d).toNat + 255) % 256 ∧
      (t.sreg.v = true ↔ (s.reg d).toNat = 0x80) ∧ (t.sreg.s = true ↔ (s.reg d).toInt - 1 < 0) ∧
      SignFlags (t.reg d) t ∧ Keeps [d] [.n, .v, .z, .s] s t ∧ t.pc = s.pc + 1)

/-- R113, R118: NEG always executes and gives the two's complement: C is set unless the result is zero, H is set exactly
where the low four bits are not all zero, V exactly at 0x80, which is left unchanged. COM always executes and gives the
one's complement, with C set. -/
def Obligations.NegComResults : Prop :=
  ∀ (s : State) (d : Reg),
    Gives (.neg d) s (fun t => (t.reg d).toNat = (256 - (s.reg d).toNat) % 256 ∧
      (t.sreg.h = true ↔ (s.reg d).toNat % 16 ≠ 0) ∧ (t.sreg.c = true ↔ (s.reg d).toNat ≠ 0) ∧
      (t.sreg.v = true ↔ (s.reg d).toNat = 0x80) ∧ (s.reg d = 0x80 → t.reg d = 0x80) ∧
      SignFlags (t.reg d) t ∧ Keeps [d] [.n, .v, .z, .s, .c, .h] s t ∧ t.pc = s.pc + 1) ∧
    Gives (.com d) s (fun t => (t.reg d).toNat = 255 - (s.reg d).toNat ∧ t.sreg.c = true ∧ t.sreg.v = false ∧
      SignFlags (t.reg d) t ∧ Keeps [d] [.n, .v, .z, .s, .c] s t ∧ t.pc = s.pc + 1)

/-- R125, R7: DES is refused on a device without it, which every device the spec admits is (D12), and on every core but
`AVRxm`. Where the device has it, on `AVRxm`, it executes: R15:R0 becomes the encryption or decryption of R15:R0 under K,
chosen by H, whatever those functions are (log entry 13, the model's choice). -/
def Obligations.DesResult : Prop :=
  ∀ (s : State) (K : BitVec 4),
    (s.dev.hasDes = true → s.dev.core = .avrxm → Gives (.des K) s (fun t =>
      t.lowBlock = (if s.sreg.h then Config.desDecrypt s.lowBlock K else Config.desEncrypt s.lowBlock K) ∧
      Keeps [0, 1, 2, 3, 4, 5, 6, 7, 8, 9, 10, 11, 12, 13, 14, 15] [] s t ∧ t.pc = s.pc + 1)) ∧
    (s.dev.hasDes = false ∨ s.dev.core ≠ .avrxm → exec (.des K) s = .refused .unavailableInstruction)

-- Multiply (41_multiply.md)

/-- R50: a pair has its low byte in the lower-numbered register and its high byte in the higher-numbered one: for R1:R0
after FMULSU, and for X, Y and Z. -/
def Obligations.PairByteOrder : Prop :=
  ∀ s : State, s.ptrX.toNat = 256 * (s.reg 27).toNat + (s.reg 26).toNat ∧
    (s.pair 29 28).toNat = 256 * (s.reg 29).toNat + (s.reg 28).toNat ∧
    s.ptrZ.toNat = 256 * (s.reg 31).toNat + (s.reg 30).toNat ∧
    ∀ (P : Word) (frac : Bool),
      ((mulWrite P frac s).reg 1).toNat = (mulResult P frac).toNat / 256 ∧
      ((mulWrite P frac s).reg 0).toNat = (mulResult P frac).toNat % 256

/-- R141, R142, R144: FMULSU executes where the device has the multiply group. The 17-bit two's complement number
`C ++ R1 ++ R0` is twice the signed by unsigned product; C is set exactly where the product is negative, Z exactly where a
factor is zero; nothing else but R1, R0 and pc changes. -/
def Obligations.FmulsuResult : Prop :=
  ∀ (s : State) (d r : Reg), Device.offersMul s.dev = true → Gives (.fmulsu d r) s fun t =>
    ((t.pair 1 0).toNat : Int) - (if t.sreg.c then 65536 else 0) = 2 * ((s.reg d).toInt * ((s.reg r).toNat : Int)) ∧
    (t.sreg.c = true ↔ (s.reg d).getLsbD 7 = true ∧ s.reg r ≠ 0) ∧
    (t.sreg.z = true ↔ s.reg d = 0 ∨ s.reg r = 0) ∧ Keeps [0, 1] [.z, .c] s t ∧ t.pc = s.pc + 1

/-- R144: read as a signed 16-bit number, R1:R0 after FMULSU is twice the product exactly where that fits 16 bits, which
is exactly where bit 7 of R1 equals C. -/
def Obligations.FmulsuOverflow : Prop :=
  ∀ (s t : State) (d r : Reg), exec (.fmulsu d r) s = .next t →
    let p := 2 * ((s.reg d).toInt * ((s.reg r).toNat : Int))
    ((t.pair 1 0).toInt = p ↔ (t.reg 1).getLsbD 7 = t.sreg.c) ∧
    ((t.pair 1 0).toInt = p ↔ -32768 ≤ p ∧ p ≤ 32767)

/-- R140, R146 to R148: MUL, MULS and MULSU execute where the device has the multiply group, and R1:R0 is the whole
product, unsigned, signed, signed by unsigned. C is bit 15 of it and Z says it is zero (general knowledge in R140: C for
these three, and Z). -/
def Obligations.MulResults : Prop :=
  ∀ (s : State) (d r : Reg), Device.offersMul s.dev = true →
    Gives (.mul d r) s (fun t => (t.pair 1 0).toNat = (s.reg d).toNat * (s.reg r).toNat ∧
      (t.sreg.c = true ↔ 32768 ≤ (s.reg d).toNat * (s.reg r).toNat) ∧
      (t.sreg.z = true ↔ s.reg d = 0 ∨ s.reg r = 0) ∧ Keeps [0, 1] [.z, .c] s t ∧ t.pc = s.pc + 1) ∧
    Gives (.muls d r) s (fun t => (t.pair 1 0).toInt = (s.reg d).toInt * (s.reg r).toInt ∧
      (t.sreg.c = true ↔ (s.reg d).toInt * (s.reg r).toInt < 0) ∧
      (t.sreg.z = true ↔ s.reg d = 0 ∨ s.reg r = 0) ∧ Keeps [0, 1] [.z, .c] s t ∧ t.pc = s.pc + 1) ∧
    Gives (.mulsu d r) s (fun t => (t.pair 1 0).toInt = (s.reg d).toInt * ((s.reg r).toNat : Int) ∧
      (t.sreg.c = true ↔ (s.reg d).toInt * ((s.reg r).toNat : Int) < 0) ∧
      (t.sreg.z = true ↔ s.reg d = 0 ∨ s.reg r = 0) ∧ Keeps [0, 1] [.z, .c] s t ∧ t.pc = s.pc + 1)

/-- R140, R143, R149, R150: FMUL and FMULS execute where the device has the multiply group; with the carry, R1:R0 is twice
the product; Z says a factor is zero; FMULS overflows for 0x80 times 0x80 only. -/
def Obligations.FmulFmulsResults : Prop :=
  ∀ (s : State) (d r : Reg), Device.offersMul s.dev = true →
    Gives (.fmul d r) s (fun t =>
      (t.pair 1 0).toNat + (if t.sreg.c then 65536 else 0) = 2 * ((s.reg d).toNat * (s.reg r).toNat) ∧
      (t.sreg.z = true ↔ s.reg d = 0 ∨ s.reg r = 0) ∧ Keeps [0, 1] [.z, .c] s t ∧ t.pc = s.pc + 1) ∧
    Gives (.fmuls d r) s (fun t =>
      ((t.pair 1 0).toNat : Int) - (if t.sreg.c then 65536 else 0) = 2 * ((s.reg d).toInt * (s.reg r).toInt) ∧
      ((t.pair 1 0).toInt = 2 * ((s.reg d).toInt * (s.reg r).toInt) ↔ ¬ (s.reg d = 0x80 ∧ s.reg r = 0x80)) ∧
      (t.sreg.z = true ↔ s.reg d = 0 ∨ s.reg r = 0) ∧ Keeps [0, 1] [.z, .c] s t ∧ t.pc = s.pc + 1)

-- Branches (42_branch.md)

/-- R160, R161: RJMP goes to `pc + k + 1`, computed as an integer; a negative target is refused. IJMP always executes and
puts Z, a word address, in bits 15:0 of pc, with every higher bit zero. Nothing but pc changes. -/
def Obligations.JumpResults : Prop :=
  ∀ (s : State) (k : BitVec 12),
    (0 ≤ (s.pc : Int) + k.toInt + 1 → Gives (.rjmp k) s (fun t =>
      (t.pc : Int) = (s.pc : Int) + k.toInt + 1 ∧ Keeps [] [] s t)) ∧
    ((s.pc : Int) + k.toInt + 1 < 0 → exec (.rjmp k) s = .fault .pcOutOfRange) ∧
    Gives .ijmp s (fun t => t.pc = 256 * (s.reg 31).toNat + (s.reg 30).toNat ∧ Keeps [] [] s t)

/-- R162, R163: BRBS is taken when its flag is set, BRBC when it is clear: to `pc + k + 1`, refused where that is
negative; otherwise to the next word. Nothing but pc changes. -/
def Obligations.FlagBranchResults : Prop :=
  ∀ (s : State) (f : Flag) (k : BitVec 7) (b : Bool),
    let i := if b then Instr.brbs f k else Instr.brbc f k
    (s.sreg.get f = b → 0 ≤ (s.pc : Int) + k.toInt + 1 → Gives i s (fun t =>
      (t.pc : Int) = (s.pc : Int) + k.toInt + 1 ∧ Keeps [] [] s t)) ∧
    (s.sreg.get f = b → (s.pc : Int) + k.toInt + 1 < 0 → exec i s = .fault .pcOutOfRange) ∧
    (s.sreg.get f ≠ b → Gives i s (fun t => t.pc = s.pc + 1 ∧ Keeps [] [] s t))

/-- R164 to R173: each named branch tests its flag, for set or for clear; BRLT and BRGE test the stored S. A branch taken
goes to `pc + k + 1`, refused where that is negative; one not taken goes to the next word; nothing but pc changes. -/
def Obligations.NamedBranchResults : Prop :=
  ∀ (s : State) (k : BitVec 7) (i : Instr) (f : Flag) (b : Bool),
    (i, f, b) ∈ [(Instr.breq k, Flag.z, true), (.brne k, .z, false), (.brcs k, .c, true), (.brlo k, .c, true),
      (.brcc k, .c, false), (.brsh k, .c, false), (.brmi k, .n, true), (.brpl k, .n, false),
      (.brlt k, .s, true), (.brge k, .s, false)] →
    (s.sreg.get f = b → 0 ≤ (s.pc : Int) + k.toInt + 1 → Gives i s (fun t =>
      (t.pc : Int) = (s.pc : Int) + k.toInt + 1 ∧ Keeps [] [] s t)) ∧
    (s.sreg.get f = b → (s.pc : Int) + k.toInt + 1 < 0 → exec i s = .fault .pcOutOfRange) ∧
    (s.sreg.get f ≠ b → Gives i s (fun t => t.pc = s.pc + 1 ∧ Keeps [] [] s t))

-- Data transfer (43_data_transfer.md)

/-- R60, R184 to R191: the addresses of the pointer forms, in integers: X and Z as they stand, one lower modulo 2^16, and
Z plus the displacement, which is not reduced. On a device with the RAMP registers, RAMPX and RAMPZ are the high parts of
the pointers, which are reduced modulo 2^24 (R31; log entries 6, 14). -/
def Obligations.PointerAddresses : Prop :=
  ∀ (s : State) (q : BitVec 6),
    (s.dev.hasRamp = false → addrX s = 256 * (s.reg 27).toNat + (s.reg 26).toNat ∧
      addrZ s = 256 * (s.reg 31).toNat + (s.reg 30).toNat ∧
      addrDecX s = (addrX s + 65535) % 65536 ∧ addrDecZ s = (addrZ s + 65535) % 65536) ∧
    (s.dev.hasRamp = true → addrX s = 65536 * s.rampx.toNat + 256 * (s.reg 27).toNat + (s.reg 26).toNat ∧
      addrZ s = 65536 * s.rampz.toNat + 256 * (s.reg 31).toNat + (s.reg 30).toNat ∧
      addrDecX s = (addrX s + 16777215) % 16777216 ∧ addrDecZ s = (addrZ s + 16777215) % 16777216) ∧
    addrZq s q = addrZ s + q.toNat

/-- R54, R57 to R59: what a read of data space answers, by the class of its address, and where a write is out of range: at
an address that is not mapped, and in program memory seen in data space. An enabled read of
program memory stops on a word that nothing has placed (log entry 10) and beyond FLASHEND (log entry 32): both are the
model's choices. -/
def Obligations.DataSpaceByClass : Prop :=
  ∀ (s : State) (a : Nat),
    (s.dev.ramend < a → s.memRead a = .fault .dataOutOfRange) ∧
    (Device.classify s.dev a = .unmapped → s.memRead a = .fault .dataOutOfRange) ∧
    (∀ j, Device.classify s.dev a = .reg j → s.memRead a = .next (s.reg j, s)) ∧
    (∀ v, Device.classify s.dev a = .sram → Memory.read s.mem a = some v → s.memRead a = .next (v, s)) ∧
    (Device.classify s.dev a = .sram → Memory.read s.mem a = none → s.memRead a = .fault .unwrittenRead) ∧
    (∀ loc, Device.classify s.dev a = .io loc → s.memRead a = s.ioRead loc) ∧
    (∀ b, Device.classify s.dev a = .progByte b → s.dev.progMapped = false → s.memRead a = .fault .dataOutOfRange) ∧
    (∀ b w, Device.classify s.dev a = .progByte b → s.dev.progMapped = true → b / 2 ≤ s.dev.flashend →
      Memory.read s.prog (b / 2) = some w →
      s.memRead a = .next (BitVec.ofNat 8 (if b % 2 = 0 then w.toNat % 256 else w.toNat / 256), s)) ∧
    (∀ b, Device.classify s.dev a = .progByte b → s.dev.progMapped = true → s.dev.flashend < b / 2 →
      s.memRead a = .fault .progReadOutOfRange) ∧
    (∀ b, Device.classify s.dev a = .progByte b → s.dev.progMapped = true → b / 2 ≤ s.dev.flashend →
      Memory.read s.prog (b / 2) = none → s.memRead a = .fault .unwrittenRead) ∧
    (∀ v, Device.classify s.dev a = .unmapped ∨ (∃ b, Device.classify s.dev a = .progByte b) →
      s.memWrite a v = .fault .dataOutOfRange)

/-- R184, R185, R186: LD executes where its read of data space answers: Rd receives the byte; X is one higher after X+, one
lower after -X, modulo 2^16, or RAMPX:X modulo 2^24 where the device has RAMPX (R31; log entry 14), and as before
otherwise, unless Rd is a half of it; nothing else changes but what the read itself did to a device. The forms with an
update are for `d` outside R26 and R27 (R183). -/
def Obligations.LoadResults : Prop :=
  ∀ (s s1 : State) (d : Reg) (v : Byte),
    (s.memRead (addrX s) = .next (v, s1) → Gives (.ldX d) s (fun t =>
      t.reg d = v ∧ (isHalfOfX d = false → t.ptrX = s.ptrX) ∧ SameRegsBut [d] s t ∧ SameFlagsBut [] s t ∧
      SameOutside s1 t ∧ t.pc = s.pc + 1)) ∧
    (isHalfOfX d = false → s.memRead (addrX s) = .next (v, s1) → Gives (.ldXInc d) s (fun t =>
      t.reg d = v ∧ MovesX s t 1 ∧ SameRegsBut [d, 26, 27] s t ∧ SameFlagsBut [] s t ∧
      SameOutside s1 (t.setRampx s.rampx) ∧ t.pc = s.pc + 1)) ∧
    (isHalfOfX d = false → s.memRead (addrDecX s) = .next (v, s1) → Gives (.ldDecX d) s (fun t =>
      t.reg d = v ∧ MovesX s t (-1) ∧ SameRegsBut [d, 26, 27] s t ∧ SameFlagsBut [] s t ∧
      SameOutside s1 (t.setRampx s.rampx) ∧ t.pc = s.pc + 1))

/-- R185, R189, R206, R205: a load or store whose access to data space stops is stopped by the same fault or refusal, so
nothing has changed, the pointer included. The addresses are those of PointerAddresses (log entry 14 for the RAMP
registers). -/
def Obligations.AccessStops : Prop :=
  ∀ (s : State) (d : Reg) (q : BitVec 6) (e : Fault) (f : Refusal),
    (s.memRead (addrX s) = .fault e → exec (.ldX d) s = .fault e ∧
      (isHalfOfX d = false → exec (.ldXInc d) s = .fault e)) ∧
    (s.memRead (addrX s) = .refused f → exec (.ldX d) s = .refused f ∧
      (isHalfOfX d = false → exec (.ldXInc d) s = .refused f)) ∧
    (isHalfOfX d = false → s.memRead (addrDecX s) = .fault e → exec (.ldDecX d) s = .fault e) ∧
    (isHalfOfX d = false → s.memRead (addrDecX s) = .refused f → exec (.ldDecX d) s = .refused f) ∧
    (s.memRead (s.sp.toNat + 1) = .fault e → exec (.pop d) s = .fault e) ∧
    (s.memRead (s.sp.toNat + 1) = .refused f → exec (.pop d) s = .refused f) ∧
    (s.memWrite (addrZ s) (s.reg d) = .fault e → exec (.stZ d) s = .fault e ∧
      (isHalfOfZ d = false → exec (.stZInc d) s = .fault e)) ∧
    (s.memWrite (addrZ s) (s.reg d) = .refused f → exec (.stZ d) s = .refused f ∧
      (isHalfOfZ d = false → exec (.stZInc d) s = .refused f)) ∧
    (isHalfOfZ d = false → s.memWrite (addrDecZ s) (s.reg d) = .fault e → exec (.stDecZ d) s = .fault e) ∧
    (isHalfOfZ d = false → s.memWrite (addrDecZ s) (s.reg d) = .refused f → exec (.stDecZ d) s = .refused f) ∧
    (Device.offersStd s.dev q = true → s.memWrite (addrZq s q) (s.reg d) = .fault e →
      exec (.stdZ q d) s = .fault e) ∧
    (Device.offersStd s.dev q = true → s.memWrite (addrZq s q) (s.reg d) = .refused f →
      exec (.stdZ q d) s = .refused f) ∧
    (s.sp ≠ 0 → s.memWrite s.sp.toNat (s.reg d) = .fault e → exec (.push d) s = .fault e) ∧
    (s.sp ≠ 0 → s.memWrite s.sp.toNat (s.reg d) = .refused f → exec (.push d) s = .refused f)

/-- R183: the forms that update a pointer they also transfer a half of are refused; for ELPM Rd,Z+, on a device that has
it, the same (log entry 20, the model's reading). -/
def Obligations.PointerConflictRefused : Prop :=
  ∀ (s : State) (d : Reg),
    (d = 26 ∨ d = 27 → exec (.ldXInc d) s = .refused .pointerRegisterConflict ∧
      exec (.ldDecX d) s = .refused .pointerRegisterConflict) ∧
    (d = 30 ∨ d = 31 → exec (.stZInc d) s = .refused .pointerRegisterConflict ∧
      exec (.stDecZ d) s = .refused .pointerRegisterConflict ∧
      (s.dev.core ≠ .avrrc → exec (.lpmZInc d) s = .refused .pointerRegisterConflict) ∧
      (s.dev.core ≠ .avrrc → s.dev.hasRamp = true → exec (.elpmZInc d) s = .refused .pointerRegisterConflict))

/-- R188 to R191: a store through Z to an SRAM address executes: that byte becomes Rr, every other byte reads as before; Z
is one higher after Z+, one lower after -Z, modulo 2^16, or RAMPZ:Z modulo 2^24 where the device has RAMPZ (R31; log entry
14), and as before otherwise; nothing else changes. The forms with an update are for `r` outside R30 and R31 (R183); STD
with a displacement needs a core that has it (R192). -/
def Obligations.StoreToSram : Prop :=
  ∀ (s : State) (q : BitVec 6) (r : Reg),
    let ends := fun (a : Nat) (ds : List Reg) (t : State) =>
      Memory.read t.mem a = some (s.reg r) ∧ SameSramBut a s t ∧ SameRegsBut ds s t ∧ SameFlagsBut [] s t ∧
      t.sp = s.sp ∧ SameSpecial s t ∧ (∀ w, Memory.read t.prog w = Memory.read s.prog w) ∧ t.pc = s.pc + 1
    (Device.classify s.dev (addrZ s) = .sram → Gives (.stZ r) s (ends (addrZ s) [])) ∧
    (isHalfOfZ r = false → Device.classify s.dev (addrZ s) = .sram → Gives (.stZInc r) s (fun t =>
      MovesZ s t 1 ∧ ends (addrZ s) [30, 31] (t.setRampz s.rampz))) ∧
    (isHalfOfZ r = false → Device.classify s.dev (addrDecZ s) = .sram → Gives (.stDecZ r) s (fun t =>
      MovesZ s t (-1) ∧ ends (addrDecZ s) [30, 31] (t.setRampz s.rampz))) ∧
    (q = 0 ∨ s.dev.core ≠ .avrrc → Device.classify s.dev (addrZq s q) = .sram →
      Gives (.stdZ q r) s (ends (addrZq s q) []))

/-- R23, R54, R188 to R192, R205: a store through Z, or a PUSH, to the address of a register writes that register. Then Z+
raises and -Z lowers Z, or RAMPZ:Z where the device has RAMPZ (R182; log entry 14; log entry 19 where the register is a half
of Z, the model's reading), and PUSH lowers SP by one. Nothing else changes. -/
def Obligations.StoreToRegister : Prop :=
  ∀ (s : State) (q : BitVec 6) (r j : Reg),
    (Device.classify s.dev (addrZ s) = .reg j → Gives (.stZ r) s (fun t =>
      t.reg j = s.reg r ∧ Keeps [j] [] s t ∧ t.pc = s.pc + 1)) ∧
    (isHalfOfZ r = false → Device.classify s.dev (addrZ s) = .reg j → Gives (.stZInc r) s (fun t =>
      (isHalfOfZ j = false → t.reg j = s.reg r) ∧ MovesZ s t 1 ∧
      Keeps [j, 30, 31] [] s (t.setRampz s.rampz) ∧ t.pc = s.pc + 1)) ∧
    (isHalfOfZ r = false → Device.classify s.dev (addrDecZ s) = .reg j → Gives (.stDecZ r) s (fun t =>
      (isHalfOfZ j = false → t.reg j = s.reg r) ∧ MovesZ s t (-1) ∧
      Keeps [j, 30, 31] [] s (t.setRampz s.rampz) ∧ t.pc = s.pc + 1)) ∧
    (q = 0 ∨ s.dev.core ≠ .avrrc → Device.classify s.dev (addrZq s q) = .reg j → Gives (.stdZ q r) s (fun t =>
      t.reg j = s.reg r ∧ Keeps [j] [] s t ∧ t.pc = s.pc + 1)) ∧
    (s.sp ≠ 0 → Device.classify s.dev s.sp.toNat = .reg j → Gives (.push r) s (fun t =>
      t.reg j = s.reg r ∧ t.sp.toNat + 1 = s.sp.toNat ∧ SameRegsBut [j] s t ∧ SameFlagsBut [] s t ∧
      SameSpecial s t ∧ SameMemories s t ∧ t.pc = s.pc + 1))

/-- R54, R57: a store through Z, or a PUSH, to an address that is an I/O location does what a write of that location does,
where it answers. Then Z+ raises and -Z lowers Z, or RAMPZ:Z where the device has RAMPZ (R182; log entry 14), and PUSH
lowers SP by one (R205; log entry 19 where the location is SP's or RAMPZ's, the model's reading). Nothing else changes. -/
def Obligations.StoreToIo : Prop :=
  ∀ (s s1 : State) (q : BitVec 6) (r : Reg) (loc : Nat), s.ioWrite loc (s.reg r) = .next s1 →
    let ends := fun (ds : List Reg) (t : State) =>
      SameRegsBut ds s t ∧ SameFlagsBut [] s1 t ∧ SameOutside s1 t ∧ t.pc = s.pc + 1
    (Device.classify s.dev (addrZ s) = .io loc → Gives (.stZ r) s (ends [])) ∧
    (isHalfOfZ r = false → Device.classify s.dev (addrZ s) = .io loc → Gives (.stZInc r) s (fun t =>
      MovesZ s t 1 ∧ ends [30, 31] (t.setRampz s1.rampz))) ∧
    (isHalfOfZ r = false → Device.classify s.dev (addrDecZ s) = .io loc → Gives (.stDecZ r) s (fun t =>
      MovesZ s t (-1) ∧ ends [30, 31] (t.setRampz s1.rampz))) ∧
    (q = 0 ∨ s.dev.core ≠ .avrrc → Device.classify s.dev (addrZq s q) = .io loc → Gives (.stdZ q r) s (ends [])) ∧
    (s.sp ≠ 0 → Device.classify s.dev s.sp.toNat = .io loc → Gives (.push r) s (fun t =>
      t.sp.toNat + 1 = s.sp.toNat ∧ SameRegsBut [] s t ∧ SameFlagsBut [] s1 t ∧ SameSpecial s1 t ∧
      SameMemories s t ∧ t.pc = s.pc + 1))

/-- R57, R201, R202 and 92_eei_decisions.md D6, D22: what a read and a write of an I/O location do, by the device model a
user has put there: refused where there is none; SREG with all eight flags (log entry 12 for their order); SP by its bytes,
of which a write drops the bits from SP_BITS up (log entry 7, the model's choice); RAMPX, RAMPY, RAMPZ, RAMPD and EIND, 8
bits each (log entry 6, the model's choice), where the device has them, refused where it lacks them; a device outside the
CPU answers with a value the model does not choose (log entry 11, the model's choice). -/
def Obligations.IoByPort : Prop :=
  ∀ (s : State) (loc : Nat) (v : Byte),
    (Device.ioPort s.dev loc = none → s.ioRead loc = .refused .ioAccess ∧ s.ioWrite loc v = .refused .ioAccess) ∧
    (Device.ioPort s.dev loc = some .sreg → s.ioRead loc = .next (s.sreg.toByte, s) ∧
      ∃ t, s.ioWrite loc v = .next t ∧ t.sreg.toByte = v ∧ t.regs = s.regs ∧ SameOutside s t ∧ t.pc = s.pc) ∧
    (Device.ioPort s.dev loc = some .spl → (∃ x, s.ioRead loc = .next (x, s) ∧ x.toNat = s.sp.toNat % 256) ∧
      ∃ t, s.ioWrite loc v = .next t ∧ t.sp.toNat = (s.sp.toNat / 256 * 256 + v.toNat) % 2 ^ s.dev.spBits % 65536 ∧
        t.regs = s.regs ∧ t.sreg = s.sreg ∧ SameSpecial s t ∧ SameMemories s t ∧ t.pc = s.pc) ∧
    (Device.ioPort s.dev loc = some .sph → (∃ x, s.ioRead loc = .next (x, s) ∧ x.toNat = s.sp.toNat / 256) ∧
      ∃ t, s.ioWrite loc v = .next t ∧ t.sp.toNat = (256 * v.toNat + s.sp.toNat % 256) % 2 ^ s.dev.spBits % 65536 ∧
        t.regs = s.regs ∧ t.sreg = s.sreg ∧ SameSpecial s t ∧ SameMemories s t ∧ t.pc = s.pc) ∧
    (∀ p x t, (p, x, t) ∈ [(IoPort.rampx, s.rampx, { s with rampx := v }), (.rampy, s.rampy, { s with rampy := v }),
        (.rampz, s.rampz, { s with rampz := v }), (.rampd, s.rampd, { s with rampd := v }),
        (.eind, s.eind, { s with eind := v })] → Device.ioPort s.dev loc = some p →
      if (if p = .eind then s.dev.hasEind else s.dev.hasRamp) = true
      then s.ioRead loc = .next (x, s) ∧ s.ioWrite loc v = .next t
      else s.ioRead loc = .refused .ioAccess ∧ s.ioWrite loc v = .refused .ioAccess) ∧
    (Device.ioPort s.dev loc = some .device → ∃ x t u, s.ioRead loc = .next (x, t) ∧ s.ioWrite loc v = .next u ∧
      t.ioLog = .read loc :: s.ioLog ∧ u.ioLog = .write loc v :: s.ioLog ∧ t.regs = s.regs ∧ u.regs = s.regs ∧
      t.sreg = s.sreg ∧ u.sreg = s.sreg ∧ t.sp = s.sp ∧ u.sp = s.sp ∧ SameMemories s t ∧ SameMemories s u)

/-- R201, R202: IN executes where the read of its location answers, and puts the byte in Rd; OUT executes where the write
of Rr to its location answers, and does nothing more; each is stopped by what stops the access (refused by default,
R57). -/
def Obligations.InOutResults : Prop :=
  ∀ (s s1 : State) (d : Reg) (A : BitVec 6) (v : Byte) (f : Refusal),
    (s.ioRead A.toNat = .next (v, s1) → Gives (.ioIn d A) s (fun t =>
      t.reg d = v ∧ SameRegsBut [d] s t ∧ SameFlagsBut [] s t ∧ SameOutside s1 t ∧ t.pc = s.pc + 1)) ∧
    (s.ioWrite A.toNat (s.reg d) = .next s1 → Gives (.ioOut A d) s (fun t =>
      SameRegsBut [] s t ∧ SameFlagsBut [] s1 t ∧ SameOutside s1 t ∧ t.pc = s.pc + 1)) ∧
    (s.ioRead A.toNat = .refused f → exec (.ioIn d A) s = .refused f) ∧
    (s.ioWrite A.toNat (s.reg d) = .refused f → exec (.ioOut A d) s = .refused f)

/-- R205: PUSH with SP = 0 is an underflow; otherwise, to an SRAM address, it executes: the byte at the address SP holds
becomes Rr, then SP is one lower; nothing else changes. -/
def Obligations.PushResult : Prop :=
  ∀ (s : State) (r : Reg), (s.sp = 0 → exec (.push r) s = .fault .spUnderflow) ∧
    (s.sp ≠ 0 → Device.classify s.dev s.sp.toNat = .sram → Gives (.push r) s (fun t =>
      Memory.read t.mem s.sp.toNat = some (s.reg r) ∧ t.sp.toNat + 1 = s.sp.toNat ∧ SameSramBut s.sp.toNat s t ∧
      SameRegsBut [] s t ∧ SameFlagsBut [] s t ∧ SameSpecial s t ∧
      (∀ w, Memory.read t.prog w = Memory.read s.prog w) ∧ t.pc = s.pc + 1))

/-- R206: POP executes where the read at `SP + 1` answers: Rd receives the byte and SP is one higher, modulo 2^16; nothing
else changes but what the read itself did to a device. The modulus is log entry 7, the model's choice: at SP = 0xFFFF, on a
device with data space beyond 64 KB, POP reads 0x10000 and leaves SP 0. -/
def Obligations.PopResult : Prop :=
  ∀ (s s1 : State) (d : Reg) (v : Byte), s.memRead (s.sp.toNat + 1) = .next (v, s1) →
    Gives (.pop d) s fun t => t.reg d = v ∧ t.sp.toNat = (s.sp.toNat + 1) % 65536 ∧ SameRegsBut [d] s t ∧
      SameFlagsBut [] s t ∧ SameSpecial s1 t ∧ SameMemories s t ∧ t.pc = s.pc + 1

/-- R206: PUSH followed by POP copies the register, to any register, and restores SP; no other register changes. -/
def Obligations.PushPopInverse : Prop :=
  ∀ (s : State) (r d : Reg), s.sp ≠ 0 → Device.classify s.dev s.sp.toNat = .sram →
    Gives (.push r) s fun t => Gives (.pop d) t fun u =>
      u.reg d = s.reg r ∧ u.sp = s.sp ∧ SameRegsBut [d] s u ∧ SameFlagsBut [] s u ∧ u.pc = s.pc + 2

/-- R207 to R210, R7, R58 and section 7 of 43_data_transfer.md: on `AVRxm`, on an SRAM byte that has a value, XCH, LAS, LAC
and LAT execute: Rd receives the old byte, and the byte becomes Rd, Rd or it, it without Rd's bits, Rd exclusive-or it,
from the values before; nothing else changes. Off `AVRxm` they are refused; an SRAM byte without a value stops them as it
stops a load; every other class of address stops them too (as an I/O access or as out of range: log entry 18, the model's
choice of the reason). The byte is the one at Z; on a device that has RAMPZ it is the one at RAMPZ:Z (log entry 14, the
model's choice). -/
def Obligations.ReadModifyWriteResults : Prop :=
  ∀ (s : State) (d : Reg) (i : Instr) (op : Bool → Bool → Bool),
    (i, op) ∈ [(Instr.xch d, fun x _ => x), (.las d, fun x y => x || y), (.lac d, fun x y => !x && y),
      (.lat d, fun x y => x ^^ y)] →
    (∀ m, s.dev.core = .avrxm → Device.classify s.dev (addrZ s) = .sram → Memory.read s.mem (addrZ s) = some m →
      Gives i s (fun t => t.reg d = m ∧
        (∃ n, Memory.read t.mem (addrZ s) = some n ∧ ∀ k < 8, n.getLsbD k = op ((s.reg d).getLsbD k) (m.getLsbD k)) ∧
        SameSramBut (addrZ s) s t ∧ SameRegsBut [d] s t ∧ SameFlagsBut [] s t ∧ t.sp = s.sp ∧ SameSpecial s t ∧
        (∀ w, Memory.read t.prog w = Memory.read s.prog w) ∧ t.pc = s.pc + 1)) ∧
    (s.dev.core ≠ .avrxm → exec i s = .refused .unavailableInstruction) ∧
    (s.dev.core = .avrxm → Device.classify s.dev (addrZ s) = .sram → Memory.read s.mem (addrZ s) = none →
      exec i s = .fault .unwrittenRead) ∧
    (∀ loc, s.dev.core = .avrxm → Device.classify s.dev (addrZ s) = .io loc → exec i s = .refused .ioAccess) ∧
    (s.dev.core = .avrxm → Device.classify s.dev (addrZ s) ≠ .sram →
      (∀ loc, Device.classify s.dev (addrZ s) ≠ .io loc) → exec i s = .fault .dataOutOfRange)

/-- R196, R52: LPM Rd,Z+ executes on a core that has it, for `d` outside R30 and R31, on a word that exists and has been
placed: Rd receives the low byte of word `Z >> 1` where Z is even, the high byte where it is odd; Z is one higher, modulo
2^16. A word beyond FLASHEND is out of range; one that nothing has placed stops it too (log entry 10, the model's choice). -/
def Obligations.LpmResult : Prop :=
  ∀ (s : State) (d : Reg), s.dev.core ≠ .avrrc → isHalfOfZ d = false →
    (∀ w, s.ptrZ.toNat / 2 ≤ s.dev.flashend → Memory.read s.prog (s.ptrZ.toNat / 2) = some w →
      Gives (.lpmZInc d) s (fun t =>
        (t.reg d).toNat = (if s.ptrZ.toNat % 2 = 0 then w.toNat % 256 else w.toNat / 256) ∧
        t.ptrZ.toNat = (s.ptrZ.toNat + 1) % 65536 ∧ Keeps [d, 30, 31] [] s t ∧ t.pc = s.pc + 1)) ∧
    (s.dev.flashend < s.ptrZ.toNat / 2 → exec (.lpmZInc d) s = .fault .progReadOutOfRange) ∧
    (s.ptrZ.toNat / 2 ≤ s.dev.flashend → Memory.read s.prog (s.ptrZ.toNat / 2) = none →
      exec (.lpmZInc d) s = .fault .unwrittenRead)

/-- R193 to R195: ELPM executes on a device with RAMPZ, on a word that exists and has been placed: R0, or Rd, receives the
program byte at RAMPZ:Z; ELPM Rd,Z+ then adds 1 to RAMPZ:Z as one number. A word that does not exist or has not been placed
stops all three. That the instruction runs at all, RAMPZ's 8 bits and these stops are the model's choices (log entries 6,
10, 14). -/
def Obligations.ElpmResults : Prop :=
  ∀ (s : State) (d : Reg), s.dev.hasRamp = true → s.dev.core ≠ .avrrc →
    let a := 65536 * s.rampz.toNat + s.ptrZ.toNat
    (∀ e : Fault, (s.dev.flashend < a / 2 ∧ e = .progReadOutOfRange) ∨
        (a / 2 ≤ s.dev.flashend ∧ Memory.read s.prog (a / 2) = none ∧ e = .unwrittenRead) →
      exec .elpm s = .fault e ∧ exec (.elpmZ d) s = .fault e ∧
      (isHalfOfZ d = false → exec (.elpmZInc d) s = .fault e)) ∧
    ∀ w : Word, a / 2 ≤ s.dev.flashend → Memory.read s.prog (a / 2) = some w →
    let b := if a % 2 = 0 then w.toNat % 256 else w.toNat / 256
    Gives .elpm s (fun t => (t.reg 0).toNat = b ∧ Keeps [0] [] s t ∧ t.pc = s.pc + 1) ∧
    Gives (.elpmZ d) s (fun t => (t.reg d).toNat = b ∧ Keeps [d] [] s t ∧ t.pc = s.pc + 1) ∧
    (isHalfOfZ d = false → Gives (.elpmZInc d) s (fun t => (t.reg d).toNat = b ∧
      65536 * t.rampz.toNat + t.ptrZ.toNat = (a + 1) % 16777216 ∧ SameRegsBut [d, 30, 31] s t ∧ SameFlagsBut [] s t ∧
      t.sp = s.sp ∧ t.rampx = s.rampx ∧ t.rampy = s.rampy ∧ t.rampd = s.rampd ∧ t.eind = s.eind ∧
      t.ioLog = s.ioLog ∧ t.dev = s.dev ∧ SameMemories s t ∧ t.pc = s.pc + 1))

/-- R199, R200: SPM executes on a device that has it: the program word that holds the byte address RAMPZ:Z, or Z where there
is no RAMPZ, becomes R1:R0; SPM Z+ then adds 2 to Z, modulo 2^16; no other word and nothing else changes. That the
instruction runs at all and writes at once is the model's choice (log entry 15). -/
def Obligations.SpmResults : Prop :=
  ∀ s : State, s.dev.hasSpm = true → s.dev.core ≠ .avrrc →
    let a := (if s.dev.hasRamp then 65536 * s.rampz.toNat else 0) + s.ptrZ.toNat
    let written := fun (t : State) =>
      (∃ w, Memory.read t.prog (a / 2) = some w ∧ w.toNat = 256 * (s.reg 1).toNat + (s.reg 0).toNat) ∧
      (∀ b, b ≠ a / 2 → Memory.read t.prog b = Memory.read s.prog b) ∧
      (∀ b, Memory.read t.mem b = Memory.read s.mem b) ∧ SameFlagsBut [] s t ∧ t.sp = s.sp ∧ SameSpecial s t ∧
      t.pc = s.pc + 1
    (a / 2 ≤ s.dev.flashend → Gives .spm s (fun t => written t ∧ SameRegsBut [] s t) ∧
      Gives .spmZInc s (fun t => written t ∧ SameRegsBut [30, 31] s t ∧
        t.ptrZ.toNat = (s.ptrZ.toNat + 2) % 65536)) ∧
    (s.dev.flashend < a / 2 → exec .spm s = .fault .progReadOutOfRange ∧
      exec .spmZInc s = .fault .progReadOutOfRange)

-- Shifts, bits and flags (44_shift_bit.md)

/-- R220, R224, R221: ASR, LSR and LSL always execute. ASR halves the signed value, rounding towards minus infinity, LSR the
unsigned value; LSL doubles modulo 256; C is the bit shifted out, V is N ^ C of the new flags, so S is C; LSL's H is bit 3
before. -/
def Obligations.ShiftResults : Prop :=
  ∀ (s : State) (d : Reg),
    let ends := fun (fs : List Flag) (out : Prop) (t : State) =>
      (t.sreg.c = true ↔ out) ∧ t.sreg.v = (t.sreg.n ^^ t.sreg.c) ∧ t.sreg.s = t.sreg.c ∧ SignFlags (t.reg d) t ∧
      Keeps [d] fs s t ∧ t.pc = s.pc + 1
    Gives (.asr d) s (fun t => (t.reg d).toInt = (s.reg d).toInt.fdiv 2 ∧
      ends [.s, .v, .n, .z, .c] ((s.reg d).toNat % 2 = 1) t) ∧
    Gives (.lsr d) s (fun t => (t.reg d).toNat = (s.reg d).toNat / 2 ∧ t.sreg.n = false ∧
      ends [.s, .v, .n, .z, .c] ((s.reg d).toNat % 2 = 1) t) ∧
    Gives (.lsl d) s (fun t => (t.reg d).toNat = 2 * (s.reg d).toNat % 256 ∧ t.sreg.h = (s.reg d).getLsbD 3 ∧
      ends [.h, .s, .v, .n, .z, .c] (128 ≤ (s.reg d).toNat) t)

/-- R227, R228, R225, R226, R229 to R236: BSET sets and BCLR clears the flag they name, always, and each named flag
instruction its own; no other flag and nothing else changes: SEN, SEV and SES leave S, or N and V, as they were. -/
def Obligations.FlagInstructionResults : Prop :=
  ∀ (s : State) (g : Flag) (i : Instr) (f : Flag) (b : Bool),
    (i, f, b) ∈ [(Instr.bset g, g, true), (.bclr g, g, false), (.seh, Flag.h, true), (.clh, .h, false),
      (.sec, .c, true), (.sez, .z, true), (.sen, .n, true), (.sev, .v, true), (.ses, .s, true), (.setT, .t, true),
      (.sei, .i, true), (.clc, .c, false)] →
    Gives i s fun t => t.sreg.get f = b ∧ Keeps [] [f] s t ∧ t.pc = s.pc + 1

-- MCU control and availability (45_mcu_control.md, 00_scope.md R7)

/-- R240, R243: NOP and WDR always execute and change pc alone; for WDR under the premise that no watchdog acts (log entry
25). -/
def Obligations.NopWdrResults : Prop :=
  ∀ s : State, Gives .nop s (fun t => Keeps [] [] s t ∧ t.pc = s.pc + 1) ∧
    Gives .wdr s (fun t => Keeps [] [] s t ∧ t.pc = s.pc + 1)

/-- R241, R242, R300: BREAK and SLEEP are refused in every state. -/
def Obligations.BreakSleepRefused : Prop :=
  ∀ s : State, exec .brk s = .refused .unavailableInstruction ∧ exec .sleep s = .refused .unavailableInstruction

/-- R7, R192, R193, R199, R257: an instruction is refused on a device that does not have it: the multiply group without
`HAS_MUL` or on `AVRrc`; LPM, ELPM, SPM, MOVW and a displaced STD on `AVRrc`; ELPM without RAMPZ, SPM and MOVW on a device
without them. On every device the spec admits (D7, D12, D18), SPM, SPM Z+, the three ELPM forms, DES, BREAK and SLEEP are
refused in every state (R300). -/
def Obligations.UnavailableRefused : Prop :=
  ∀ (s : State) (d r : Reg) (q : BitVec 6),
    (s.dev.hasMul = false ∨ s.dev.core = .avrrc → ∀ i ∈ [Instr.mul d r, .muls d r, .mulsu d r, .fmul d r, .fmuls d r,
      .fmulsu d r], exec i s = .refused .unavailableInstruction) ∧
    (s.dev.core = .avrrc → exec (.lpmZInc d) s = .refused .unavailableInstruction ∧
      (q ≠ 0 → exec (.stdZ q r) s = .refused .unavailableInstruction)) ∧
    (s.dev.hasRamp = false ∨ s.dev.core = .avrrc → ∀ i ∈ [Instr.elpm, .elpmZ d, .elpmZInc d],
      exec i s = .refused .unavailableInstruction) ∧
    (s.dev.hasSpm = false ∨ s.dev.core = .avrrc → ∀ i ∈ [Instr.spm, .spmZInc],
      exec i s = .refused .unavailableInstruction) ∧
    (s.dev.hasMovw = false ∨ s.dev.core = .avrrc → exec (.movw d r) s = .refused .unavailableInstruction) ∧
    (s.dev.admitted = true → ∀ K, ∀ i ∈ [Instr.spm, .spmZInc, .elpm, .elpmZ d, .elpmZInc d, .des K, .brk, .sleep],
      exec i s = .refused .unavailableInstruction)

-- Supplement (46_supplement.md)

/-- R250, R251, R258: ADD and ADC always execute: the sum, with the carry for ADC, modulo 256; C and H are the carries out
of bits 7 and 3, V says the signed sum leaves its range, and S is the sign of the exact signed sum. -/
def Obligations.AddResults : Prop :=
  ∀ (s : State) (d r : Reg) (withCarry : Bool),
    let c := if withCarry && s.sreg.c then 1 else 0
    let sum := (s.reg d).toNat + (s.reg r).toNat + c
    let exact := (s.reg d).toInt + (s.reg r).toInt + (c : Int)
    Gives (if withCarry then .adc d r else .add d r) s fun t =>
      (t.reg d).toNat = sum % 256 ∧ (t.sreg.c = true ↔ 256 ≤ sum) ∧
      (t.sreg.h = true ↔ 16 ≤ (s.reg d).toNat % 16 + (s.reg r).toNat % 16 + c) ∧
      (t.sreg.v = true ↔ exact < -128 ∨ 127 < exact) ∧ (t.sreg.s = true ↔ exact < 0) ∧
      SignFlags (t.reg d) t ∧ Keeps [d] [.h, .s, .v, .n, .z, .c] s t ∧ t.pc = s.pc + 1

/-- R252, R254, R259: SUB and CPI always execute: the difference modulo 256, which CPI does not write; C and H are the
borrows, V says the signed difference leaves its range, and S is the sign of the exact signed difference. -/
def Obligations.SubCpiResults : Prop :=
  ∀ (s : State) (d r : Reg) (K : Byte),
    let ends := fun (b : Byte) (ds : List Reg) (t : State) =>
      (t.sreg.c = true ↔ (s.reg d).toNat < b.toNat) ∧ (t.sreg.h = true ↔ (s.reg d).toNat % 16 < b.toNat % 16) ∧
      (t.sreg.v = true ↔ (s.reg d).toInt - b.toInt < -128 ∨ 127 < (s.reg d).toInt - b.toInt) ∧
      (t.sreg.s = true ↔ (s.reg d).toInt < b.toInt) ∧ (t.sreg.z = true ↔ s.reg d = b) ∧
      t.sreg.s = (t.sreg.n ^^ t.sreg.v) ∧ Keeps ds [.h, .s, .v, .n, .z, .c] s t ∧ t.pc = s.pc + 1
    Gives (.sub d r) s (fun t => (t.reg d).toNat = ((s.reg d).toNat + 256 - (s.reg r).toNat) % 256 ∧
      ends (s.reg r) [d] t) ∧
    Gives (.cpi d K) s (ends K [])

/-- R253, R259: SBC always executes: the difference with the borrow modulo 256; Z is cleared where the result is not zero
and otherwise keeps its value; the other flags as for SUB. -/
def Obligations.SbcResult : Prop :=
  ∀ (s : State) (d r : Reg),
    let c := if s.sreg.c then 1 else 0
    let exact := (s.reg d).toInt - (s.reg r).toInt - (c : Int)
    Gives (.sbc d r) s fun t =>
      (t.reg d).toNat = ((s.reg d).toNat + 256 - (s.reg r).toNat + (256 - c)) % 256 ∧
      (t.sreg.c = true ↔ (s.reg d).toNat < (s.reg r).toNat + c) ∧
      (t.sreg.h = true ↔ (s.reg d).toNat % 16 < (s.reg r).toNat % 16 + c) ∧
      (t.sreg.v = true ↔ exact < -128 ∨ 127 < exact) ∧ (t.sreg.s = true ↔ exact < 0) ∧
      t.sreg.n = (t.reg d).getLsbD 7 ∧ (t.sreg.z = true ↔ t.reg d = 0 ∧ s.sreg.z = true) ∧
      Keeps [d] [.h, .s, .v, .n, .z, .c] s t ∧ t.pc = s.pc + 1

/-- R250 to R253: ADD then ADC is a 16-bit sum, SUB then SBC a 16-bit difference, with the carry or borrow out of the whole,
and after the subtraction Z says the whole result is zero. The high bytes are in registers the low half does not write. -/
def Obligations.SixteenBitArithmetic : Prop :=
  ∀ (s : State) (lo hi a b : Reg), hi ≠ lo → b ≠ lo →
    let x := 256 * (s.reg hi).toNat + (s.reg lo).toNat
    let y := 256 * (s.reg b).toNat + (s.reg a).toNat
    Gives (.add lo a) s (fun t => Gives (.adc hi b) t (fun u =>
      256 * (u.reg hi).toNat + (u.reg lo).toNat = (x + y) % 65536 ∧ (u.sreg.c = true ↔ 65536 ≤ x + y))) ∧
    Gives (.sub lo a) s (fun t => Gives (.sbc hi b) t (fun u =>
      256 * (u.reg hi).toNat + (u.reg lo).toNat = (x + 65536 - y) % 65536 ∧ (u.sreg.c = true ↔ x < y) ∧
      (u.sreg.z = true ↔ x = y)))

/-- R255, R256, R124, R257: LDI, SER and MOV always execute and put a constant, 0xFF or Rr in Rd; MOVW executes on a device
that has it and copies a pair, both registers read before either is written. No flag and nothing else changes. -/
def Obligations.MoveResults : Prop :=
  ∀ (s : State) (d r : Reg) (K : Byte),
    Gives (.ldi d K) s (fun t => t.reg d = K ∧ Keeps [d] [] s t ∧ t.pc = s.pc + 1) ∧
    Gives (.ser d) s (fun t => (t.reg d).toNat = 255 ∧ Keeps [d] [] s t ∧ t.pc = s.pc + 1) ∧
    Gives (.mov d r) s (fun t => t.reg d = s.reg r ∧ Keeps [d] [] s t ∧ t.pc = s.pc + 1) ∧
    (s.dev.hasMovw = true → s.dev.core ≠ .avrrc → Gives (.movw d r) s (fun t =>
      t.reg d = s.reg r ∧ t.reg (d + 1) = s.reg (r + 1) ∧ Keeps [d, d + 1] [] s t ∧ t.pc = s.pc + 1))
end

