-- ==== Sys2Proof/Laws/Memory.lean ====
section
/-! SUPPORT. The laws of the memories: a read after a write, and the canonical form (20_memory.md R54, R63). -/

namespace Sys2Proof.Machine

variable {α : Type}

/-- A read of the address just written gives the value written. -/
@[simp] theorem memory_read_write_self (m : List (Nat × α)) (a : Nat) (v : α) :
    Memory.read (Memory.write m a v) a = some v := by
  induction m with
  | nil => simp [Memory.write, Memory.read]
  | cons e m ih =>
    obtain ⟨b, w⟩ := e
    by_cases h1 : a < b
    · simp [Memory.write, Memory.read, h1]
    · by_cases h2 : a = b
      · simp [Memory.write, Memory.read, h2]
      · simp [Memory.write, Memory.read, h1, h2, ih]

/-- A write leaves every other address as it was. -/
theorem memory_read_write_other {a c : Nat} (h : c ≠ a) (m : List (Nat × α)) (v : α) :
    Memory.read (Memory.write m a v) c = Memory.read m c := by
  induction m with
  | nil => simp [Memory.write, Memory.read, h]
  | cons e m ih =>
    obtain ⟨b, w⟩ := e
    by_cases h1 : a < b
    · simp [Memory.write, Memory.read, h1, h]
    · by_cases h2 : a = b
      · subst h2; simp [Memory.write, Memory.read, h]
      · simp [Memory.write, Memory.read, h1, h2, ih]

/-- A read after a write, in one equation. -/
theorem memory_read_write (m : List (Nat × α)) (a c : Nat) (v : α) :
    Memory.read (Memory.write m a v) c = if c = a then some v else Memory.read m c := by
  by_cases h : c = a
  · subst h; simp
  · simp [h, memory_read_write_other h]

/-- The canonical form of a longer list. -/
theorem memory_wf_cons (a : Nat) (v : α) (b : Nat) (w : α) (m : List (Nat × α)) :
    Memory.wf ((a, v) :: (b, w) :: m) = true ↔ a < b ∧ Memory.wf ((b, w) :: m) = true := by
  simp [Memory.wf]

/-- The tail of a canonical memory is canonical. -/
theorem memory_wf_tail {e : Nat × α} {m : List (Nat × α)} (h : Memory.wf (e :: m) = true) :
    Memory.wf m = true := by
  cases m with
  | nil => rfl
  | cons f m =>
    obtain ⟨a, v⟩ := e
    obtain ⟨b, w⟩ := f
    exact ((memory_wf_cons a v b w m).1 h).2

/-- Putting a smaller entry before a write keeps the canonical form. -/
theorem memory_wf_cons_write {b a : Nat} (w v : α) {m : List (Nat × α)} (hba : b < a)
    (h : Memory.wf ((b, w) :: m) = true) (ih : Memory.wf (Memory.write m a v) = true) :
    Memory.wf ((b, w) :: Memory.write m a v) = true := by
  cases m with
  | nil => simp [Memory.write, Memory.wf, hba]
  | cons e m =>
    obtain ⟨c, u⟩ := e
    have hbc : b < c := ((memory_wf_cons b w c u m).1 h).1
    by_cases h1 : a < c
    · simp only [Memory.write, h1, if_true] at ih ⊢
      exact (memory_wf_cons _ _ _ _ _).2 ⟨hba, ih⟩
    · by_cases h2 : a = c
      · simp only [Memory.write, h2, lt_irrefl, if_false, if_true] at ih ⊢
        exact (memory_wf_cons _ _ _ _ _).2 ⟨hbc, ih⟩
      · simp only [Memory.write, h1, h2, if_false] at ih ⊢
        exact (memory_wf_cons _ _ _ _ _).2 ⟨hbc, ih⟩

/-- A write keeps the canonical form. -/
theorem memory_wf_write (m : List (Nat × α)) (a : Nat) (v : α) (h : Memory.wf m = true) :
    Memory.wf (Memory.write m a v) = true := by
  induction m with
  | nil => rfl
  | cons e m ih =>
    obtain ⟨b, w⟩ := e
    by_cases h1 : a < b
    · simp only [Memory.write, h1, if_true]
      exact (memory_wf_cons _ _ _ _ _).2 ⟨h1, h⟩
    · by_cases h2 : a = b
      · subst h2
        simp only [Memory.write, lt_irrefl, if_false, if_true]
        cases m with
        | nil => rfl
        | cons f m =>
          obtain ⟨c, u⟩ := f
          exact (memory_wf_cons _ _ _ _ _).2 ((memory_wf_cons _ _ _ _ _).1 h)
      · simp only [Memory.write, h1, h2, if_false]
        exact memory_wf_cons_write w v (by omega) h (ih (memory_wf_tail h))

/-- Every address a write lists was listed or is the one written. -/
theorem memory_mem_write {m : List (Nat × α)} {a : Nat} {v : α} {e : Nat × α}
    (h : e ∈ Memory.write m a v) : e = (a, v) ∨ e ∈ m := by
  induction m with
  | nil => simpa [Memory.write] using h
  | cons f m ih =>
    obtain ⟨b, w⟩ := f
    by_cases h1 : a < b
    · simpa [Memory.write, h1] using h
    · by_cases h2 : a = b
      · simp only [Memory.write, h2, lt_irrefl, if_false, if_true, List.mem_cons] at h
        rcases h with h | h
        · exact .inl (by rw [h, h2])
        · exact .inr (List.mem_cons_of_mem _ h)
      · simp only [Memory.write, h1, h2, if_false, List.mem_cons] at h
        rcases h with h | h
        · exact .inr (by rw [h]; exact List.mem_cons_self)
        · rcases ih h with h | h
          · exact .inl h
          · exact .inr (List.mem_cons_of_mem _ h)

/-- A property of all addresses survives a write at an address that has it. -/
theorem memory_all_write {p : Nat → Bool} {m : List (Nat × α)} {a : Nat} {v : α}
    (h : m.all (fun e => p e.1) = true) (ha : p a = true) :
    (Memory.write m a v).all (fun e => p e.1) = true := by
  simp only [List.all_eq_true] at h ⊢
  intro e he
  rcases memory_mem_write he with rfl | he
  · exact ha
  · exact h e he

/-- Equal memories are equal data: two canonical memories that read alike at every address are the same list. -/
theorem memory_ext {m n : List (Nat × α)} (hm : Memory.wf m = true) (hn : Memory.wf n = true)
    (h : ∀ a, Memory.read m a = Memory.read n a) : m = n := by
  have below : ∀ (l : List (Nat × α)) (b : Nat) (w : α), Memory.wf ((b, w) :: l) = true →
      ∀ a, a ≤ b → Memory.read l a = none := by
    intro l
    induction l with
    | nil => intros; rfl
    | cons e l ih =>
      obtain ⟨c, u⟩ := e
      intro b w hw a ha
      have hbc := ((memory_wf_cons b w c u l).1 hw)
      have hne : a ≠ c := by omega
      simp only [Memory.read, hne, if_false]
      exact ih c u hbc.2 a (by omega)
  induction m generalizing n with
  | nil =>
    cases n with
    | nil => rfl
    | cons e n => obtain ⟨b, w⟩ := e; simpa [Memory.read] using h b
  | cons e m ih =>
    obtain ⟨b, w⟩ := e
    cases n with
    | nil => simpa [Memory.read] using h b
    | cons f n =>
      obtain ⟨c, u⟩ := f
      have hbc : b = c := by
        rcases Nat.lt_trichotomy b c with hlt | heq | hgt
        · have h1 := h b
          have hne : b ≠ c := by omega
          simp [Memory.read, hne, below n c u hn b (by omega)] at h1
        · exact heq
        · have h1 := h c
          have hne : c ≠ b := by omega
          simp [Memory.read, hne, below m b w hm c (by omega)] at h1
      subst hbc
      have hv : w = u := by simpa [Memory.read] using h b
      subst hv
      congr 1
      apply ih (memory_wf_tail hm) (memory_wf_tail hn)
      intro a
      by_cases hab : a ≤ b
      · rw [below m b w hm a hab, below n b w hn a hab]
      · have h1 := h a
        have hne : a ≠ b := by omega
        simpa [Memory.read, hne] using h1

end Sys2Proof.Machine
end

