-- ==== Sys2Proof/Laws/State.lean ====
section
/-! SUPPORT. What each update of the state does to each field, one lemma per field per update, and what a register
reads after each update of the register file. -/

namespace Sys2Proof.Machine

-- setReg

@[simp] theorem setReg_regs (s : State) (i : Reg) (v : Byte) : (s.setReg i v).regs = s.regs.set i.val v := rfl
@[simp] theorem setReg_pc (s : State) (i : Reg) (v : Byte) : (s.setReg i v).pc = s.pc := rfl
@[simp] theorem setReg_sreg (s : State) (i : Reg) (v : Byte) : (s.setReg i v).sreg = s.sreg := rfl
@[simp] theorem setReg_sp (s : State) (i : Reg) (v : Byte) : (s.setReg i v).sp = s.sp := rfl
@[simp] theorem setReg_rampx (s : State) (i : Reg) (v : Byte) : (s.setReg i v).rampx = s.rampx := rfl
@[simp] theorem setReg_rampy (s : State) (i : Reg) (v : Byte) : (s.setReg i v).rampy = s.rampy := rfl
@[simp] theorem setReg_rampz (s : State) (i : Reg) (v : Byte) : (s.setReg i v).rampz = s.rampz := rfl
@[simp] theorem setReg_rampd (s : State) (i : Reg) (v : Byte) : (s.setReg i v).rampd = s.rampd := rfl
@[simp] theorem setReg_eind (s : State) (i : Reg) (v : Byte) : (s.setReg i v).eind = s.eind := rfl
@[simp] theorem setReg_mem (s : State) (i : Reg) (v : Byte) : (s.setReg i v).mem = s.mem := rfl
@[simp] theorem setReg_prog (s : State) (i : Reg) (v : Byte) : (s.setReg i v).prog = s.prog := rfl
@[simp] theorem setReg_ioLog (s : State) (i : Reg) (v : Byte) : (s.setReg i v).ioLog = s.ioLog := rfl
@[simp] theorem setReg_dev (s : State) (i : Reg) (v : Byte) : (s.setReg i v).dev = s.dev := rfl

-- setPair

@[simp] theorem setPair_pc (s : State) (hi lo : Reg) (v : Word) : (s.setPair hi lo v).pc = s.pc := rfl
@[simp] theorem setPair_sreg (s : State) (hi lo : Reg) (v : Word) : (s.setPair hi lo v).sreg = s.sreg := rfl
@[simp] theorem setPair_sp (s : State) (hi lo : Reg) (v : Word) : (s.setPair hi lo v).sp = s.sp := rfl
@[simp] theorem setPair_rampx (s : State) (hi lo : Reg) (v : Word) : (s.setPair hi lo v).rampx = s.rampx := rfl
@[simp] theorem setPair_rampy (s : State) (hi lo : Reg) (v : Word) : (s.setPair hi lo v).rampy = s.rampy := rfl
@[simp] theorem setPair_rampz (s : State) (hi lo : Reg) (v : Word) : (s.setPair hi lo v).rampz = s.rampz := rfl
@[simp] theorem setPair_rampd (s : State) (hi lo : Reg) (v : Word) : (s.setPair hi lo v).rampd = s.rampd := rfl
@[simp] theorem setPair_eind (s : State) (hi lo : Reg) (v : Word) : (s.setPair hi lo v).eind = s.eind := rfl
@[simp] theorem setPair_mem (s : State) (hi lo : Reg) (v : Word) : (s.setPair hi lo v).mem = s.mem := rfl
@[simp] theorem setPair_prog (s : State) (hi lo : Reg) (v : Word) : (s.setPair hi lo v).prog = s.prog := rfl
@[simp] theorem setPair_ioLog (s : State) (hi lo : Reg) (v : Word) : (s.setPair hi lo v).ioLog = s.ioLog := rfl
@[simp] theorem setPair_dev (s : State) (hi lo : Reg) (v : Word) : (s.setPair hi lo v).dev = s.dev := rfl

-- setPtrX

@[simp] theorem setPtrX_pc (s : State) (v : Word) : (s.setPtrX v).pc = s.pc := rfl
@[simp] theorem setPtrX_sreg (s : State) (v : Word) : (s.setPtrX v).sreg = s.sreg := rfl
@[simp] theorem setPtrX_sp (s : State) (v : Word) : (s.setPtrX v).sp = s.sp := rfl
@[simp] theorem setPtrX_rampx (s : State) (v : Word) : (s.setPtrX v).rampx = s.rampx := rfl
@[simp] theorem setPtrX_rampy (s : State) (v : Word) : (s.setPtrX v).rampy = s.rampy := rfl
@[simp] theorem setPtrX_rampz (s : State) (v : Word) : (s.setPtrX v).rampz = s.rampz := rfl
@[simp] theorem setPtrX_rampd (s : State) (v : Word) : (s.setPtrX v).rampd = s.rampd := rfl
@[simp] theorem setPtrX_eind (s : State) (v : Word) : (s.setPtrX v).eind = s.eind := rfl
@[simp] theorem setPtrX_mem (s : State) (v : Word) : (s.setPtrX v).mem = s.mem := rfl
@[simp] theorem setPtrX_prog (s : State) (v : Word) : (s.setPtrX v).prog = s.prog := rfl
@[simp] theorem setPtrX_ioLog (s : State) (v : Word) : (s.setPtrX v).ioLog = s.ioLog := rfl
@[simp] theorem setPtrX_dev (s : State) (v : Word) : (s.setPtrX v).dev = s.dev := rfl

-- setPtrZ

@[simp] theorem setPtrZ_pc (s : State) (v : Word) : (s.setPtrZ v).pc = s.pc := rfl
@[simp] theorem setPtrZ_sreg (s : State) (v : Word) : (s.setPtrZ v).sreg = s.sreg := rfl
@[simp] theorem setPtrZ_sp (s : State) (v : Word) : (s.setPtrZ v).sp = s.sp := rfl
@[simp] theorem setPtrZ_rampx (s : State) (v : Word) : (s.setPtrZ v).rampx = s.rampx := rfl
@[simp] theorem setPtrZ_rampy (s : State) (v : Word) : (s.setPtrZ v).rampy = s.rampy := rfl
@[simp] theorem setPtrZ_rampz (s : State) (v : Word) : (s.setPtrZ v).rampz = s.rampz := rfl
@[simp] theorem setPtrZ_rampd (s : State) (v : Word) : (s.setPtrZ v).rampd = s.rampd := rfl
@[simp] theorem setPtrZ_eind (s : State) (v : Word) : (s.setPtrZ v).eind = s.eind := rfl
@[simp] theorem setPtrZ_mem (s : State) (v : Word) : (s.setPtrZ v).mem = s.mem := rfl
@[simp] theorem setPtrZ_prog (s : State) (v : Word) : (s.setPtrZ v).prog = s.prog := rfl
@[simp] theorem setPtrZ_ioLog (s : State) (v : Word) : (s.setPtrZ v).ioLog = s.ioLog := rfl
@[simp] theorem setPtrZ_dev (s : State) (v : Word) : (s.setPtrZ v).dev = s.dev := rfl

-- setLowBlock

@[simp] theorem setLowBlock_pc (s : State) (v : BitVec 128) :
    (s.setLowBlock v).pc = s.pc := by simp only [State.setLowBlock]
@[simp] theorem setLowBlock_sreg (s : State) (v : BitVec 128) :
    (s.setLowBlock v).sreg = s.sreg := by simp only [State.setLowBlock]
@[simp] theorem setLowBlock_sp (s : State) (v : BitVec 128) :
    (s.setLowBlock v).sp = s.sp := by simp only [State.setLowBlock]
@[simp] theorem setLowBlock_rampx (s : State) (v : BitVec 128) :
    (s.setLowBlock v).rampx = s.rampx := by simp only [State.setLowBlock]
@[simp] theorem setLowBlock_rampy (s : State) (v : BitVec 128) :
    (s.setLowBlock v).rampy = s.rampy := by simp only [State.setLowBlock]
@[simp] theorem setLowBlock_rampz (s : State) (v : BitVec 128) :
    (s.setLowBlock v).rampz = s.rampz := by simp only [State.setLowBlock]
@[simp] theorem setLowBlock_rampd (s : State) (v : BitVec 128) :
    (s.setLowBlock v).rampd = s.rampd := by simp only [State.setLowBlock]
@[simp] theorem setLowBlock_eind (s : State) (v : BitVec 128) :
    (s.setLowBlock v).eind = s.eind := by simp only [State.setLowBlock]
@[simp] theorem setLowBlock_mem (s : State) (v : BitVec 128) :
    (s.setLowBlock v).mem = s.mem := by simp only [State.setLowBlock]
@[simp] theorem setLowBlock_prog (s : State) (v : BitVec 128) :
    (s.setLowBlock v).prog = s.prog := by simp only [State.setLowBlock]
@[simp] theorem setLowBlock_ioLog (s : State) (v : BitVec 128) :
    (s.setLowBlock v).ioLog = s.ioLog := by simp only [State.setLowBlock]
@[simp] theorem setLowBlock_dev (s : State) (v : BitVec 128) :
    (s.setLowBlock v).dev = s.dev := by simp only [State.setLowBlock]

-- setRampz

@[simp] theorem setRampz_regs (s : State) (v : Byte) : (s.setRampz v).regs = s.regs := rfl
@[simp] theorem setRampz_pc (s : State) (v : Byte) : (s.setRampz v).pc = s.pc := rfl
@[simp] theorem setRampz_sreg (s : State) (v : Byte) : (s.setRampz v).sreg = s.sreg := rfl
@[simp] theorem setRampz_sp (s : State) (v : Byte) : (s.setRampz v).sp = s.sp := rfl
@[simp] theorem setRampz_rampx (s : State) (v : Byte) : (s.setRampz v).rampx = s.rampx := rfl
@[simp] theorem setRampz_rampy (s : State) (v : Byte) : (s.setRampz v).rampy = s.rampy := rfl
@[simp] theorem setRampz_rampz (s : State) (v : Byte) : (s.setRampz v).rampz = v := rfl
@[simp] theorem setRampz_rampd (s : State) (v : Byte) : (s.setRampz v).rampd = s.rampd := rfl
@[simp] theorem setRampz_eind (s : State) (v : Byte) : (s.setRampz v).eind = s.eind := rfl
@[simp] theorem setRampz_mem (s : State) (v : Byte) : (s.setRampz v).mem = s.mem := rfl
@[simp] theorem setRampz_prog (s : State) (v : Byte) : (s.setRampz v).prog = s.prog := rfl
@[simp] theorem setRampz_ioLog (s : State) (v : Byte) : (s.setRampz v).ioLog = s.ioLog := rfl
@[simp] theorem setRampz_dev (s : State) (v : Byte) : (s.setRampz v).dev = s.dev := rfl

-- setRampx

@[simp] theorem setRampx_regs (s : State) (v : Byte) : (s.setRampx v).regs = s.regs := rfl
@[simp] theorem setRampx_pc (s : State) (v : Byte) : (s.setRampx v).pc = s.pc := rfl
@[simp] theorem setRampx_sreg (s : State) (v : Byte) : (s.setRampx v).sreg = s.sreg := rfl
@[simp] theorem setRampx_sp (s : State) (v : Byte) : (s.setRampx v).sp = s.sp := rfl
@[simp] theorem setRampx_rampx (s : State) (v : Byte) : (s.setRampx v).rampx = v := rfl
@[simp] theorem setRampx_rampy (s : State) (v : Byte) : (s.setRampx v).rampy = s.rampy := rfl
@[simp] theorem setRampx_rampz (s : State) (v : Byte) : (s.setRampx v).rampz = s.rampz := rfl
@[simp] theorem setRampx_rampd (s : State) (v : Byte) : (s.setRampx v).rampd = s.rampd := rfl
@[simp] theorem setRampx_eind (s : State) (v : Byte) : (s.setRampx v).eind = s.eind := rfl
@[simp] theorem setRampx_mem (s : State) (v : Byte) : (s.setRampx v).mem = s.mem := rfl
@[simp] theorem setRampx_prog (s : State) (v : Byte) : (s.setRampx v).prog = s.prog := rfl
@[simp] theorem setRampx_ioLog (s : State) (v : Byte) : (s.setRampx v).ioLog = s.ioLog := rfl
@[simp] theorem setRampx_dev (s : State) (v : Byte) : (s.setRampx v).dev = s.dev := rfl

-- setWideX

@[simp] theorem setWideX_pc (s : State) (a : Nat) : (s.setWideX a).pc = s.pc := rfl
@[simp] theorem setWideX_sreg (s : State) (a : Nat) : (s.setWideX a).sreg = s.sreg := rfl
@[simp] theorem setWideX_sp (s : State) (a : Nat) : (s.setWideX a).sp = s.sp := rfl
@[simp] theorem setWideX_rampx (s : State) (a : Nat) : (s.setWideX a).rampx = Device.rampOf s.dev a s.rampx := rfl
@[simp] theorem setWideX_rampy (s : State) (a : Nat) : (s.setWideX a).rampy = s.rampy := rfl
@[simp] theorem setWideX_rampz (s : State) (a : Nat) : (s.setWideX a).rampz = s.rampz := rfl
@[simp] theorem setWideX_rampd (s : State) (a : Nat) : (s.setWideX a).rampd = s.rampd := rfl
@[simp] theorem setWideX_eind (s : State) (a : Nat) : (s.setWideX a).eind = s.eind := rfl
@[simp] theorem setWideX_mem (s : State) (a : Nat) : (s.setWideX a).mem = s.mem := rfl
@[simp] theorem setWideX_prog (s : State) (a : Nat) : (s.setWideX a).prog = s.prog := rfl
@[simp] theorem setWideX_ioLog (s : State) (a : Nat) : (s.setWideX a).ioLog = s.ioLog := rfl
@[simp] theorem setWideX_dev (s : State) (a : Nat) : (s.setWideX a).dev = s.dev := rfl

-- setWideZ

@[simp] theorem setWideZ_pc (s : State) (a : Nat) : (s.setWideZ a).pc = s.pc := rfl
@[simp] theorem setWideZ_sreg (s : State) (a : Nat) : (s.setWideZ a).sreg = s.sreg := rfl
@[simp] theorem setWideZ_sp (s : State) (a : Nat) : (s.setWideZ a).sp = s.sp := rfl
@[simp] theorem setWideZ_rampx (s : State) (a : Nat) : (s.setWideZ a).rampx = s.rampx := rfl
@[simp] theorem setWideZ_rampy (s : State) (a : Nat) : (s.setWideZ a).rampy = s.rampy := rfl
@[simp] theorem setWideZ_rampz (s : State) (a : Nat) : (s.setWideZ a).rampz = Device.rampOf s.dev a s.rampz := rfl
@[simp] theorem setWideZ_rampd (s : State) (a : Nat) : (s.setWideZ a).rampd = s.rampd := rfl
@[simp] theorem setWideZ_eind (s : State) (a : Nat) : (s.setWideZ a).eind = s.eind := rfl
@[simp] theorem setWideZ_mem (s : State) (a : Nat) : (s.setWideZ a).mem = s.mem := rfl
@[simp] theorem setWideZ_prog (s : State) (a : Nat) : (s.setWideZ a).prog = s.prog := rfl
@[simp] theorem setWideZ_ioLog (s : State) (a : Nat) : (s.setWideZ a).ioLog = s.ioLog := rfl
@[simp] theorem setWideZ_dev (s : State) (a : Nat) : (s.setWideZ a).dev = s.dev := rfl

-- logRead

@[simp] theorem logRead_regs (s : State) (loc : Nat) (p : IoPort) : (s.logRead loc p).regs = s.regs := rfl
@[simp] theorem logRead_pc (s : State) (loc : Nat) (p : IoPort) : (s.logRead loc p).pc = s.pc := rfl
@[simp] theorem logRead_sreg (s : State) (loc : Nat) (p : IoPort) : (s.logRead loc p).sreg = s.sreg := rfl
@[simp] theorem logRead_sp (s : State) (loc : Nat) (p : IoPort) : (s.logRead loc p).sp = s.sp := rfl
@[simp] theorem logRead_rampx (s : State) (loc : Nat) (p : IoPort) : (s.logRead loc p).rampx = s.rampx := rfl
@[simp] theorem logRead_rampy (s : State) (loc : Nat) (p : IoPort) : (s.logRead loc p).rampy = s.rampy := rfl
@[simp] theorem logRead_rampz (s : State) (loc : Nat) (p : IoPort) : (s.logRead loc p).rampz = s.rampz := rfl
@[simp] theorem logRead_rampd (s : State) (loc : Nat) (p : IoPort) : (s.logRead loc p).rampd = s.rampd := rfl
@[simp] theorem logRead_eind (s : State) (loc : Nat) (p : IoPort) : (s.logRead loc p).eind = s.eind := rfl
@[simp] theorem logRead_mem (s : State) (loc : Nat) (p : IoPort) : (s.logRead loc p).mem = s.mem := rfl
@[simp] theorem logRead_prog (s : State) (loc : Nat) (p : IoPort) : (s.logRead loc p).prog = s.prog := rfl
@[simp] theorem logRead_ioLog (s : State) (loc : Nat) (p : IoPort) :
    (s.logRead loc p).ioLog = if p = .device then .read loc :: s.ioLog else s.ioLog := rfl
@[simp] theorem logRead_dev (s : State) (loc : Nat) (p : IoPort) : (s.logRead loc p).dev = s.dev := rfl

-- writePort

@[simp] theorem writePort_regs (s : State) (loc : Nat) (v : Byte) (p : IoPort) :
    (s.writePort loc v p).regs = s.regs := by cases p <;> rfl
@[simp] theorem writePort_pc (s : State) (loc : Nat) (v : Byte) (p : IoPort) :
    (s.writePort loc v p).pc = s.pc := by cases p <;> rfl
@[simp] theorem writePort_sreg (s : State) (loc : Nat) (v : Byte) (p : IoPort) :
    (s.writePort loc v p).sreg = if p = .sreg then Sreg.ofByte v else s.sreg := by cases p <;> rfl
@[simp] theorem writePort_rampx (s : State) (loc : Nat) (v : Byte) (p : IoPort) :
    (s.writePort loc v p).rampx = if p = .rampx then v else s.rampx := by cases p <;> rfl
@[simp] theorem writePort_rampy (s : State) (loc : Nat) (v : Byte) (p : IoPort) :
    (s.writePort loc v p).rampy = if p = .rampy then v else s.rampy := by cases p <;> rfl
@[simp] theorem writePort_rampz (s : State) (loc : Nat) (v : Byte) (p : IoPort) :
    (s.writePort loc v p).rampz = if p = .rampz then v else s.rampz := by cases p <;> rfl
@[simp] theorem writePort_rampd (s : State) (loc : Nat) (v : Byte) (p : IoPort) :
    (s.writePort loc v p).rampd = if p = .rampd then v else s.rampd := by cases p <;> rfl
@[simp] theorem writePort_eind (s : State) (loc : Nat) (v : Byte) (p : IoPort) :
    (s.writePort loc v p).eind = if p = .eind then v else s.eind := by cases p <;> rfl
@[simp] theorem writePort_mem (s : State) (loc : Nat) (v : Byte) (p : IoPort) :
    (s.writePort loc v p).mem = s.mem := by cases p <;> rfl
@[simp] theorem writePort_prog (s : State) (loc : Nat) (v : Byte) (p : IoPort) :
    (s.writePort loc v p).prog = s.prog := by cases p <;> rfl
@[simp] theorem writePort_ioLog (s : State) (loc : Nat) (v : Byte) (p : IoPort) :
    (s.writePort loc v p).ioLog = if p = .device then .write loc v :: s.ioLog else s.ioLog := by cases p <;> rfl
@[simp] theorem writePort_dev (s : State) (loc : Nat) (v : Byte) (p : IoPort) :
    (s.writePort loc v p).dev = s.dev := by cases p <;> rfl

-- setSreg

@[simp] theorem setSreg_regs (s : State) (sr : Sreg) : (s.setSreg sr).regs = s.regs := rfl
@[simp] theorem setSreg_pc (s : State) (sr : Sreg) : (s.setSreg sr).pc = s.pc := rfl
@[simp] theorem setSreg_sreg (s : State) (sr : Sreg) : (s.setSreg sr).sreg = sr := rfl
@[simp] theorem setSreg_sp (s : State) (sr : Sreg) : (s.setSreg sr).sp = s.sp := rfl
@[simp] theorem setSreg_rampx (s : State) (sr : Sreg) : (s.setSreg sr).rampx = s.rampx := rfl
@[simp] theorem setSreg_rampy (s : State) (sr : Sreg) : (s.setSreg sr).rampy = s.rampy := rfl
@[simp] theorem setSreg_rampz (s : State) (sr : Sreg) : (s.setSreg sr).rampz = s.rampz := rfl
@[simp] theorem setSreg_rampd (s : State) (sr : Sreg) : (s.setSreg sr).rampd = s.rampd := rfl
@[simp] theorem setSreg_eind (s : State) (sr : Sreg) : (s.setSreg sr).eind = s.eind := rfl
@[simp] theorem setSreg_mem (s : State) (sr : Sreg) : (s.setSreg sr).mem = s.mem := rfl
@[simp] theorem setSreg_prog (s : State) (sr : Sreg) : (s.setSreg sr).prog = s.prog := rfl
@[simp] theorem setSreg_ioLog (s : State) (sr : Sreg) : (s.setSreg sr).ioLog = s.ioLog := rfl
@[simp] theorem setSreg_dev (s : State) (sr : Sreg) : (s.setSreg sr).dev = s.dev := rfl

-- setSp

@[simp] theorem setSp_regs (s : State) (v : Word) : (s.setSp v).regs = s.regs := rfl
@[simp] theorem setSp_pc (s : State) (v : Word) : (s.setSp v).pc = s.pc := rfl
@[simp] theorem setSp_sreg (s : State) (v : Word) : (s.setSp v).sreg = s.sreg := rfl
@[simp] theorem setSp_sp (s : State) (v : Word) : (s.setSp v).sp = BitVec.ofNat 16 (v.toNat % 2 ^ s.dev.spBits) := rfl
@[simp] theorem setSp_rampx (s : State) (v : Word) : (s.setSp v).rampx = s.rampx := rfl
@[simp] theorem setSp_rampy (s : State) (v : Word) : (s.setSp v).rampy = s.rampy := rfl
@[simp] theorem setSp_rampz (s : State) (v : Word) : (s.setSp v).rampz = s.rampz := rfl
@[simp] theorem setSp_rampd (s : State) (v : Word) : (s.setSp v).rampd = s.rampd := rfl
@[simp] theorem setSp_eind (s : State) (v : Word) : (s.setSp v).eind = s.eind := rfl
@[simp] theorem setSp_mem (s : State) (v : Word) : (s.setSp v).mem = s.mem := rfl
@[simp] theorem setSp_prog (s : State) (v : Word) : (s.setSp v).prog = s.prog := rfl
@[simp] theorem setSp_ioLog (s : State) (v : Word) : (s.setSp v).ioLog = s.ioLog := rfl
@[simp] theorem setSp_dev (s : State) (v : Word) : (s.setSp v).dev = s.dev := rfl

-- sramWrite

@[simp] theorem sramWrite_regs (s : State) (a : Nat) (v : Byte) : (s.sramWrite a v).regs = s.regs := rfl
@[simp] theorem sramWrite_pc (s : State) (a : Nat) (v : Byte) : (s.sramWrite a v).pc = s.pc := rfl
@[simp] theorem sramWrite_sreg (s : State) (a : Nat) (v : Byte) : (s.sramWrite a v).sreg = s.sreg := rfl
@[simp] theorem sramWrite_sp (s : State) (a : Nat) (v : Byte) : (s.sramWrite a v).sp = s.sp := rfl
@[simp] theorem sramWrite_rampx (s : State) (a : Nat) (v : Byte) : (s.sramWrite a v).rampx = s.rampx := rfl
@[simp] theorem sramWrite_rampy (s : State) (a : Nat) (v : Byte) : (s.sramWrite a v).rampy = s.rampy := rfl
@[simp] theorem sramWrite_rampz (s : State) (a : Nat) (v : Byte) : (s.sramWrite a v).rampz = s.rampz := rfl
@[simp] theorem sramWrite_rampd (s : State) (a : Nat) (v : Byte) : (s.sramWrite a v).rampd = s.rampd := rfl
@[simp] theorem sramWrite_eind (s : State) (a : Nat) (v : Byte) : (s.sramWrite a v).eind = s.eind := rfl
@[simp] theorem sramWrite_mem (s : State) (a : Nat) (v : Byte) : (s.sramWrite a v).mem = Memory.write s.mem a v := rfl
@[simp] theorem sramWrite_prog (s : State) (a : Nat) (v : Byte) : (s.sramWrite a v).prog = s.prog := rfl
@[simp] theorem sramWrite_ioLog (s : State) (a : Nat) (v : Byte) : (s.sramWrite a v).ioLog = s.ioLog := rfl
@[simp] theorem sramWrite_dev (s : State) (a : Nat) (v : Byte) : (s.sramWrite a v).dev = s.dev := rfl

-- advance

@[simp] theorem advance_regs (s : State) : (s.advance).regs = s.regs := rfl
@[simp] theorem advance_pc (s : State) : (s.advance).pc = s.pc + 1 := rfl
@[simp] theorem advance_sreg (s : State) : (s.advance).sreg = s.sreg := rfl
@[simp] theorem advance_sp (s : State) : (s.advance).sp = s.sp := rfl
@[simp] theorem advance_rampx (s : State) : (s.advance).rampx = s.rampx := rfl
@[simp] theorem advance_rampy (s : State) : (s.advance).rampy = s.rampy := rfl
@[simp] theorem advance_rampz (s : State) : (s.advance).rampz = s.rampz := rfl
@[simp] theorem advance_rampd (s : State) : (s.advance).rampd = s.rampd := rfl
@[simp] theorem advance_eind (s : State) : (s.advance).eind = s.eind := rfl
@[simp] theorem advance_mem (s : State) : (s.advance).mem = s.mem := rfl
@[simp] theorem advance_prog (s : State) : (s.advance).prog = s.prog := rfl
@[simp] theorem advance_ioLog (s : State) : (s.advance).ioLog = s.ioLog := rfl
@[simp] theorem advance_dev (s : State) : (s.advance).dev = s.dev := rfl

-- placeWord

@[simp] theorem placeWord_regs (s : State) (w : Word) : (placeWord s w).regs = s.regs := rfl
@[simp] theorem placeWord_pc (s : State) (w : Word) : (placeWord s w).pc = s.pc := rfl
@[simp] theorem placeWord_sreg (s : State) (w : Word) : (placeWord s w).sreg = s.sreg := rfl
@[simp] theorem placeWord_sp (s : State) (w : Word) : (placeWord s w).sp = s.sp := rfl
@[simp] theorem placeWord_rampx (s : State) (w : Word) : (placeWord s w).rampx = s.rampx := rfl
@[simp] theorem placeWord_rampy (s : State) (w : Word) : (placeWord s w).rampy = s.rampy := rfl
@[simp] theorem placeWord_rampz (s : State) (w : Word) : (placeWord s w).rampz = s.rampz := rfl
@[simp] theorem placeWord_rampd (s : State) (w : Word) : (placeWord s w).rampd = s.rampd := rfl
@[simp] theorem placeWord_eind (s : State) (w : Word) : (placeWord s w).eind = s.eind := rfl
@[simp] theorem placeWord_mem (s : State) (w : Word) : (placeWord s w).mem = s.mem := rfl
@[simp] theorem placeWord_prog (s : State) (w : Word) : (placeWord s w).prog = Memory.write s.prog s.pc w := rfl
@[simp] theorem placeWord_ioLog (s : State) (w : Word) : (placeWord s w).ioLog = s.ioLog := rfl
@[simp] theorem placeWord_dev (s : State) (w : Word) : (placeWord s w).dev = s.dev := rfl

-- mulWrite

@[simp] theorem mulWrite_pc (P : Word) (frac : Bool) (s : State) : (mulWrite P frac s).pc = s.pc := rfl
@[simp] theorem mulWrite_sreg (P : Word) (frac : Bool) (s : State) :
    (mulWrite P frac s).sreg = mulFlags P frac s.sreg := rfl
@[simp] theorem mulWrite_sp (P : Word) (frac : Bool) (s : State) : (mulWrite P frac s).sp = s.sp := rfl
@[simp] theorem mulWrite_rampx (P : Word) (frac : Bool) (s : State) : (mulWrite P frac s).rampx = s.rampx := rfl
@[simp] theorem mulWrite_rampy (P : Word) (frac : Bool) (s : State) : (mulWrite P frac s).rampy = s.rampy := rfl
@[simp] theorem mulWrite_rampz (P : Word) (frac : Bool) (s : State) : (mulWrite P frac s).rampz = s.rampz := rfl
@[simp] theorem mulWrite_rampd (P : Word) (frac : Bool) (s : State) : (mulWrite P frac s).rampd = s.rampd := rfl
@[simp] theorem mulWrite_eind (P : Word) (frac : Bool) (s : State) : (mulWrite P frac s).eind = s.eind := rfl
@[simp] theorem mulWrite_mem (P : Word) (frac : Bool) (s : State) : (mulWrite P frac s).mem = s.mem := rfl
@[simp] theorem mulWrite_prog (P : Word) (frac : Bool) (s : State) : (mulWrite P frac s).prog = s.prog := rfl
@[simp] theorem mulWrite_ioLog (P : Word) (frac : Bool) (s : State) : (mulWrite P frac s).ioLog = s.ioLog := rfl
@[simp] theorem mulWrite_dev (P : Word) (frac : Bool) (s : State) : (mulWrite P frac s).dev = s.dev := rfl

-- Registers after an update

theorem reg_setReg (s : State) (i j : Reg) (v : Byte) :
    (s.setReg i v).reg j = if i = j then v else s.reg j := by
  simp only [State.reg, State.setReg, Vector.getElem_set, Fin.ext_iff]

@[simp] theorem reg_setReg_self (s : State) (i : Reg) (v : Byte) : (s.setReg i v).reg i = v := by
  simp [reg_setReg]

@[simp] theorem reg_setReg_other {i j : Reg} (h : i ≠ j) (s : State) (v : Byte) :
    (s.setReg i v).reg j = s.reg j := by
  simp [reg_setReg, h]

@[simp] theorem reg_setSreg (s : State) (sr : Sreg) (i : Reg) : (s.setSreg sr).reg i = s.reg i := rfl

@[simp] theorem reg_setSp (s : State) (v : Word) (i : Reg) : (s.setSp v).reg i = s.reg i := rfl

@[simp] theorem reg_sramWrite (s : State) (a : Nat) (v : Byte) (i : Reg) : (s.sramWrite a v).reg i = s.reg i := rfl

@[simp] theorem reg_advance (s : State) (i : Reg) : s.advance.reg i = s.reg i := rfl

@[simp] theorem reg_setRampz (s : State) (v : Byte) (i : Reg) : (s.setRampz v).reg i = s.reg i := rfl

@[simp] theorem reg_setRampx (s : State) (v : Byte) (i : Reg) : (s.setRampx v).reg i = s.reg i := rfl

@[simp] theorem reg_logRead (s : State) (loc : Nat) (p : IoPort) (i : Reg) : (s.logRead loc p).reg i = s.reg i := rfl

@[simp] theorem reg_writePort (s : State) (loc : Nat) (v : Byte) (p : IoPort) (i : Reg) :
    (s.writePort loc v p).reg i = s.reg i := by simp only [State.reg, writePort_regs]

/-- Only a write of a half of SP changes SP. -/
theorem writePort_sp {p : IoPort} (hl : p ≠ .spl) (hh : p ≠ .sph) (s : State) (loc : Nat) (v : Byte) :
    (s.writePort loc v p).sp = s.sp := by cases p <;> first | rfl | contradiction

@[simp] theorem reg_placeWord (s : State) (w : Word) (i : Reg) : (placeWord s w).reg i = s.reg i := rfl

/-- A register after a pair is set: the halves read the halves, any other register is as before. -/
theorem reg_setPair (s : State) (hi lo j : Reg) (v : Word) :
    (s.setPair hi lo v).reg j =
      if lo = j then v.extractLsb' 0 8 else if hi = j then v.extractLsb' 8 8 else s.reg j := by
  simp only [State.setPair, reg_setReg]

/-- A pair reads what was last set in it. -/
@[simp] theorem pair_setPair {hi lo : Reg} (h : hi ≠ lo) (s : State) (v : Word) :
    (s.setPair hi lo v).pair hi lo = v := by
  simp only [State.pair, reg_setPair, if_pos, if_neg (Ne.symm h)]
  apply BitVec.eq_of_getLsbD_eq
  intro k hk
  simp only [BitVec.getLsbD_append, BitVec.getLsbD_extractLsb']
  by_cases h8 : k < 8
  · simp [h8]
  · have hk8 : k - 8 < 8 := by omega
    have hadd : 8 + (k - 8) = k := by omega
    simp [h8, hk8, hadd]

@[simp] theorem ptrX_setPtrX (s : State) (v : Word) : (s.setPtrX v).ptrX = v := pair_setPair (by decide) s v

@[simp] theorem ptrZ_setPtrZ (s : State) (v : Word) : (s.setPtrZ v).ptrZ = v := pair_setPair (by decide) s v

/-- A register outside R27:R26 is as before when X is set. -/
theorem reg_setPtrX {j : Reg} (h : isHalfOfX j = false) (s : State) (v : Word) : (s.setPtrX v).reg j = s.reg j := by
  simp only [isHalfOfX, Bool.or_eq_false_iff, beq_eq_false_iff_ne] at h
  simp only [State.setPtrX, reg_setPair, if_neg (Ne.symm h.1), if_neg (Ne.symm h.2)]

/-- A register outside R31:R30 is as before when Z is set. -/
theorem reg_setPtrZ {j : Reg} (h : isHalfOfZ j = false) (s : State) (v : Word) : (s.setPtrZ v).reg j = s.reg j := by
  simp only [isHalfOfZ, Bool.or_eq_false_iff, beq_eq_false_iff_ne] at h
  simp only [State.setPtrZ, reg_setPair, if_neg (Ne.symm h.1), if_neg (Ne.symm h.2)]

-- Pointers after an update (R31, R60)

theorem ptrSpan_pos (dev : Device) : 0 < Device.ptrSpan dev := by unfold Device.ptrSpan; split <;> omega

/-- A pointer one higher or one lower is a pointer. -/
theorem ptrInc_lt (dev : Device) (a : Nat) : ptrInc dev a < Device.ptrSpan dev := Nat.mod_lt _ (ptrSpan_pos dev)
theorem ptrDec_lt (dev : Device) (a : Nat) : ptrDec dev a < Device.ptrSpan dev := Nat.mod_lt _ (ptrSpan_pos dev)

/-- A number within the span is what its two parts make. -/
theorem extend_parts {dev : Device} {a : Nat} (h : a < Device.ptrSpan dev) (ramp : Byte) :
    Device.extend dev (Device.rampOf dev a ramp) (BitVec.ofNat 16 a) = a := by
  unfold Device.ptrSpan at h
  unfold Device.extend Device.rampOf
  split
  · simp_all; omega
  · simp_all

/-- X, with RAMPX where the device has it, reads what was last set in it; the same of Z. -/
theorem addrX_setWideX {s : State} {a : Nat} (h : a < Device.ptrSpan s.dev) : addrX (s.setWideX a) = a := by
  have hp : (s.setWideX a).ptrX = BitVec.ofNat 16 a := ptrX_setPtrX s _
  simp only [addrX, setWideX_dev, setWideX_rampx, hp, extend_parts h]

theorem addrZ_setWideZ {s : State} {a : Nat} (h : a < Device.ptrSpan s.dev) : addrZ (s.setWideZ a) = a := by
  have hp : (s.setWideZ a).ptrZ = BitVec.ofNat 16 a := ptrZ_setPtrZ s _
  simp only [addrZ, setWideZ_dev, setWideZ_rampz, hp, extend_parts h]

/-- A register outside the pair is as before when a pointer is set. -/
theorem reg_setWideX {j : Reg} (h : isHalfOfX j = false) (s : State) (a : Nat) : (s.setWideX a).reg j = s.reg j :=
  reg_setPtrX h s _
theorem reg_setWideZ {j : Reg} (h : isHalfOfZ j = false) (s : State) (a : Nat) : (s.setWideZ a).reg j = s.reg j :=
  reg_setPtrZ h s _

/-- A register after R15:R0 is set: R0 to R15 read their byte, R16 to R31 are as before. -/
theorem reg_setLowBlock (s : State) (v : BitVec 128) (i : Reg) :
    (s.setLowBlock v).reg i = if i.val < 16 then v.extractLsb' (8 * i.val) 8 else s.reg i := by
  simp [State.reg, State.setLowBlock]

/-- The registers after a multiply: R0 and R1 read the result, every other register is as before. -/
theorem reg_mulWrite (P : Word) (frac : Bool) (s : State) (i : Reg) :
    (mulWrite P frac s).reg i =
      if 0 = i then (mulResult P frac).extractLsb' 0 8
      else if 1 = i then (mulResult P frac).extractLsb' 8 8 else s.reg i := by
  simp only [mulWrite, reg_setPair, reg_setSreg]

-- Flags after an update

@[simp] theorem sreg_get_set_self (sr : Sreg) (f : Flag) (b : Bool) : (sr.set f b).get f = b := by
  cases f <;> rfl

@[simp] theorem sreg_get_set_other {f g : Flag} (h : f ≠ g) (sr : Sreg) (b : Bool) :
    (sr.set f b).get g = sr.get g := by
  cases f <;> cases g <;> first | rfl | exact absurd rfl h

/-- SREG as a byte and back. -/
@[simp] theorem sreg_ofByte_toByte (sr : Sreg) : Sreg.ofByte sr.toByte = sr := by
  obtain ⟨i, t, h, s, v, n, z, c⟩ := sr
  revert i t h s v n z c
  decide

/-- A byte as SREG and back. -/
@[simp] theorem sreg_toByte_ofByte (b : Byte) : (Sreg.ofByte b).toByte = b := by
  revert b
  decide +kernel

@[simp] theorem withNVZ_s (sr : Sreg) (n v z : Bool) : (sr.withNVZ n v z).s = (n ^^ v) := rfl
@[simp] theorem withNVZ_n (sr : Sreg) (n v z : Bool) : (sr.withNVZ n v z).n = n := rfl
@[simp] theorem withNVZ_v (sr : Sreg) (n v z : Bool) : (sr.withNVZ n v z).v = v := rfl
@[simp] theorem withNVZ_z (sr : Sreg) (n v z : Bool) : (sr.withNVZ n v z).z = z := rfl
@[simp] theorem withNVZ_c (sr : Sreg) (n v z : Bool) : (sr.withNVZ n v z).c = sr.c := rfl
@[simp] theorem withNVZ_h (sr : Sreg) (n v z : Bool) : (sr.withNVZ n v z).h = sr.h := rfl
@[simp] theorem withNVZ_t (sr : Sreg) (n v z : Bool) : (sr.withNVZ n v z).t = sr.t := rfl
@[simp] theorem withNVZ_i (sr : Sreg) (n v z : Bool) : (sr.withNVZ n v z).i = sr.i := rfl

end Sys2Proof.Machine
end

