-- ==== Sys2Proof/Laws/Ops.lean ====
section
/-! SUPPORT. One lemma per shared operation that says once everything it can do when it answers a next state, and
that the memory operations keep the canonical form. -/

namespace Sys2Proof.Machine

-- Sequencing and gates

/-- `andThen` answers only through both of its parts. -/
theorem andThen_eq_next {α β : Type} {r : Res α} {f : α → Res β} {b : β} (h : andThen r f = .next b) :
    ∃ a, r = .next a ∧ f a = .next b := by
  cases r with
  | next a => exact ⟨a, rfl, h⟩
  | fault e => simp [andThen] at h
  | refused e => simp [andThen] at h

@[simp] theorem andThen_next {α β : Type} (a : α) (f : α → Res β) : andThen (.next a) f = f a := rfl
@[simp] theorem andThen_fault {α β : Type} (e : Fault) (f : α → Res β) : andThen (.fault e) f = .fault e := rfl
@[simp] theorem andThen_refused {α β : Type} (e : Refusal) (f : α → Res β) :
    andThen (.refused e) f = .refused e := rfl

/-- A gated instruction answers only where the device has it. -/
theorem requires_eq_next {has : Bool} {r : Res State} {t : State} (h : requires has r = .next t) :
    has = true ∧ r = .next t := by
  cases has with
  | true => exact ⟨rfl, h⟩
  | false => simp [requires] at h

@[simp] theorem requires_true (r : Res State) : requires true r = r := rfl
@[simp] theorem requires_false (r : Res State) : requires false r = .refused .unavailableInstruction := rfl

/-- A pointer form answers only where the pointer update does not meet the register it transfers. -/
theorem unlessConflict_eq_next {conflict : Bool} {r : Res State} {t : State}
    (h : unlessConflict conflict r = .next t) : conflict = false ∧ r = .next t := by
  cases conflict with
  | false => exact ⟨rfl, h⟩
  | true => simp [unlessConflict] at h

@[simp] theorem unlessConflict_false (r : Res State) : unlessConflict false r = r := rfl
@[simp] theorem unlessConflict_true (r : Res State) :
    unlessConflict true r = .refused .pointerRegisterConflict := rfl

-- I/O locations

/-- A location answers where a port is supplied that the device has. -/
theorem portAt_eq_next {s : State} {loc : Nat} {p : IoPort} (h : s.portAt loc = .next p) :
    Device.ioPort s.dev loc = some p ∧ Device.hasPort s.dev p = true := by
  unfold State.portAt at h
  split at h
  · cases h
  · split at h
    · cases h; exact ⟨by assumption, by assumption⟩
    · cases h

/-- A read of an I/O location gives the port's byte, and changes nothing but the record of a device's reads. -/
theorem ioRead_eq_next {s t : State} {loc : Nat} {v : Byte} (h : s.ioRead loc = .next (v, t)) :
    ∃ p, Device.ioPort s.dev loc = some p ∧ Device.hasPort s.dev p = true ∧ v = s.portByte loc p ∧
      t = s.logRead loc p := by
  obtain ⟨p, hp, h⟩ := andThen_eq_next h
  cases h
  exact ⟨p, (portAt_eq_next hp).1, (portAt_eq_next hp).2, rfl, rfl⟩

/-- A write of an I/O location writes the port there. -/
theorem ioWrite_eq_next {s t : State} {loc : Nat} {v : Byte} (h : s.ioWrite loc v = .next t) :
    ∃ p, Device.ioPort s.dev loc = some p ∧ Device.hasPort s.dev p = true ∧ t = s.writePort loc v p := by
  obtain ⟨p, hp, h⟩ := andThen_eq_next h
  cases h
  exact ⟨p, (portAt_eq_next hp).1, (portAt_eq_next hp).2, rfl⟩

-- Data space

/-- An SRAM read gives the byte that is there. -/
theorem sramRead_eq_next {s : State} {a : Nat} {v : Byte} (h : s.sramRead a = .next v) :
    Memory.read s.mem a = some v := by
  unfold State.sramRead at h
  split at h
  · cases h; assumption
  · cases h

/-- A read of data space changes nothing, but for the record of a read that a device saw. -/
theorem memRead_eq_next {s t : State} {a : Nat} {v : Byte} (h : s.memRead a = .next (v, t)) :
    (t = s ∧ ∃ j, Device.classify s.dev a = .reg j ∧ v = s.reg j) ∨
    (t = s ∧ Device.classify s.dev a = .sram ∧ Memory.read s.mem a = some v) ∨
    (t = s ∧ ∃ b, Device.classify s.dev a = .progByte b ∧ s.dev.progMapped = true ∧ s.progByte b = .next v) ∨
    (∃ loc, Device.classify s.dev a = .io loc ∧ s.ioRead loc = .next (v, t)) := by
  unfold State.memRead at h
  split at h
  · next j hc => cases h; exact .inl ⟨rfl, j, hc, rfl⟩
  · next loc hc => exact .inr (.inr (.inr ⟨loc, hc, h⟩))
  · next hc =>
    obtain ⟨w, hw, h⟩ := andThen_eq_next h
    cases h
    exact .inr (.inl ⟨rfl, hc, sramRead_eq_next hw⟩)
  · next b hc =>
    split at h
    · obtain ⟨w, hw, h⟩ := andThen_eq_next h
      cases h
      exact .inr (.inr (.inl ⟨rfl, b, hc, by assumption, hw⟩))
    · cases h
  · cases h

/-- A write of data space goes to a register, to SRAM or to an I/O location, by the class of its address. -/
theorem memWrite_eq_next {s t : State} {a : Nat} {v : Byte} (h : s.memWrite a v = .next t) :
    (∃ j, Device.classify s.dev a = .reg j ∧ t = s.setReg j v) ∨
    (Device.classify s.dev a = .sram ∧ t = s.sramWrite a v) ∨
    (∃ loc, Device.classify s.dev a = .io loc ∧ s.ioWrite loc v = .next t) := by
  unfold State.memWrite at h
  split at h
  · next j hc => cases h; exact .inl ⟨j, hc, rfl⟩
  · next loc hc => exact .inr (.inr ⟨loc, hc, h⟩)
  · next hc => cases h; exact .inr (.inl ⟨hc, rfl⟩)
  · cases h
  · cases h

/-- A load answers the state the read leaves, with the byte in Rd and the pointer update applied. -/
theorem loadByte_eq_next {d : Reg} {a : Nat} {upd : State → State} {s t : State}
    (h : loadByte d a upd s = .next t) :
    ∃ v s1, s.memRead a = .next (v, s1) ∧ t = (upd (s1.setReg d v)).advance := by
  obtain ⟨⟨v, s1⟩, hr, h⟩ := andThen_eq_next h
  cases h
  exact ⟨v, s1, hr, rfl⟩

/-- A store answers the state the write leaves, with the pointer update applied. -/
theorem storeByte_eq_next {r : Reg} {a : Nat} {upd : State → State} {s t : State}
    (h : storeByte r a upd s = .next t) :
    ∃ s1, s.memWrite a (s.reg r) = .next s1 ∧ t = (upd s1).advance := by
  obtain ⟨s1, hw, h⟩ := andThen_eq_next h
  cases h
  exact ⟨s1, hw, rfl⟩

/-- XCH, LAS, LAC, LAT answer on SRAM only, where both halves are from the values before. -/
theorem readModifyWrite_eq_next {f : Byte → Byte → Byte} {d : Reg} {s t : State}
    (h : readModifyWrite f d s = .next t) :
    Device.classify s.dev (addrZ s) = .sram ∧ ∃ m, Memory.read s.mem (addrZ s) = some m ∧
      t = ((s.sramWrite (addrZ s) (f (s.reg d) m)).setReg d m).advance := by
  unfold readModifyWrite at h
  split at h
  · next hc =>
    obtain ⟨m, hm, h⟩ := andThen_eq_next h
    cases h
    exact ⟨hc, m, sramRead_eq_next hm, rfl⟩
  all_goals cases h

-- Program memory

/-- A program word that is read exists and has been placed. -/
theorem progWord_eq_next {s : State} {w : Nat} {beyond : Fault} {v : Word}
    (h : s.progWord w beyond = .next v) : w ≤ s.dev.flashend ∧ Memory.read s.prog w = some v := by
  unfold State.progWord at h
  split at h
  · cases h
  · split at h
    · cases h; exact ⟨by omega, by assumption⟩
    · cases h

/-- A program byte is the half of its word that the byte address selects. -/
theorem progByte_eq_next {s : State} {a : Nat} {v : Byte} (h : s.progByte a = .next v) :
    ∃ w, s.progWord (a / 2) .progReadOutOfRange = .next w ∧ v = byteOfWord w a := by
  obtain ⟨w, hw, h⟩ := andThen_eq_next h
  cases h
  exact ⟨w, hw, rfl⟩

/-- A program word is written where it exists, and nothing else changes. -/
theorem progWrite_eq_next {s t : State} {w : Nat} {v : Word} (h : s.progWrite w v = .next t) :
    w ≤ s.dev.flashend ∧ t = { s with prog := Memory.write s.prog w v } := by
  unfold State.progWrite at h
  split at h
  · cases h
  · cases h; exact ⟨by omega, rfl⟩

/-- A load from program memory changes Rd and what its pointer update changes. -/
theorem loadProgByte_eq_next {d : Reg} {a : Nat} {upd : State → State} {s t : State}
    (h : loadProgByte d a upd s = .next t) :
    ∃ v, s.progByte a = .next v ∧ t = (upd (s.setReg d v)).advance := by
  obtain ⟨v, hr, h⟩ := andThen_eq_next h
  cases h
  exact ⟨v, hr, rfl⟩

/-- A store to program memory changes one word and what its pointer update changes. -/
theorem storeProgWord_eq_next {upd : State → State} {s t : State} (h : storeProgWord upd s = .next t) :
    ∃ s1, s.progWrite (addrZ s / 2) (s.pair 1 0) = .next s1 ∧ t = (upd s1).advance := by
  obtain ⟨s1, hw, h⟩ := andThen_eq_next h
  cases h
  exact ⟨s1, hw, rfl⟩

-- Branches

/-- A jump that answers changes pc alone, to its target. -/
theorem jumpRel_eq_next {k : Int} {s t : State} (h : jumpRel k s = .next t) :
    0 ≤ relTarget s.pc k ∧ t = { s with pc := (relTarget s.pc k).toNat } := by
  unfold jumpRel at h
  split at h
  · cases h
  · cases h; exact ⟨by omega, rfl⟩

/-- A conditional branch that answers changes pc alone: to its target, or to the next word. -/
theorem branchIf_eq_next {taken : Bool} {k : BitVec 7} {s t : State} (h : branchIf taken k s = .next t) :
    (taken = true ∧ 0 ≤ relTarget s.pc k.toInt ∧ t = { s with pc := (relTarget s.pc k.toInt).toNat }) ∨
    (taken = false ∧ t = s.advance) := by
  cases taken with
  | true => exact .inl ⟨rfl, jumpRel_eq_next h⟩
  | false => cases h; exact .inr ⟨rfl, rfl⟩

-- The step

/-- A step that answers fetched a word, decoded it and ran the instruction. -/
theorem step_eq_next {s t : State} (h : step s = .next t) :
    ∃ w i, fetch s = .next w ∧ decode w = .ok i ∧ exec i s = .next t := by
  obtain ⟨w, hw, h⟩ := andThen_eq_next h
  obtain ⟨i, hi, h⟩ := andThen_eq_next h
  refine ⟨w, i, hw, ?_, h⟩
  unfold decodeFetched at hi
  split at hi
  · cases hi; assumption
  · cases hi

-- The memory operations keep the canonical form

/-- The memories of the reset state have the canonical form. -/
theorem reset_memories_wf : Memory.wf State.reset.mem = true ∧ Memory.wf State.reset.prog = true := ⟨rfl, rfl⟩

theorem sramWrite_wf {s : State} (h : Memory.wf s.mem = true) (a : Nat) (v : Byte) :
    Memory.wf (s.sramWrite a v).mem = true := memory_wf_write _ _ _ h

theorem placeWord_wf {s : State} (h : Memory.wf s.prog = true) (w : Word) :
    Memory.wf (placeWord s w).prog = true := memory_wf_write _ _ _ h

theorem progWrite_wf {s t : State} {w : Nat} {v : Word} (hs : Memory.wf s.prog = true)
    (h : s.progWrite w v = .next t) : Memory.wf t.prog = true := by
  obtain ⟨-, rfl⟩ := progWrite_eq_next h
  exact memory_wf_write _ _ _ hs

/-- A read or write of an I/O location leaves both memories. -/
theorem ioRead_memories {s t : State} {loc : Nat} {v : Byte} (h : s.ioRead loc = .next (v, t)) :
    t.mem = s.mem ∧ t.prog = s.prog := by
  obtain ⟨p, -, -, -, rfl⟩ := ioRead_eq_next h
  exact ⟨rfl, rfl⟩

theorem ioWrite_memories {s t : State} {loc : Nat} {v : Byte} (h : s.ioWrite loc v = .next t) :
    t.mem = s.mem ∧ t.prog = s.prog := by
  obtain ⟨p, -, -, rfl⟩ := ioWrite_eq_next h
  exact ⟨writePort_mem s loc v p, writePort_prog s loc v p⟩

/-- A read of data space leaves both memories. -/
theorem memRead_memories {s t : State} {a : Nat} {v : Byte} (h : s.memRead a = .next (v, t)) :
    t.mem = s.mem ∧ t.prog = s.prog := by
  rcases memRead_eq_next h with ⟨rfl, -⟩ | ⟨rfl, -⟩ | ⟨rfl, -⟩ | ⟨_, -, h⟩
  · exact ⟨rfl, rfl⟩
  · exact ⟨rfl, rfl⟩
  · exact ⟨rfl, rfl⟩
  · exact ioRead_memories h

/-- A write of data space leaves program memory, and keeps the canonical form of SRAM. -/
theorem memWrite_wf {s t : State} {a : Nat} {v : Byte} (hs : Memory.wf s.mem = true)
    (h : s.memWrite a v = .next t) : Memory.wf t.mem = true ∧ t.prog = s.prog := by
  rcases memWrite_eq_next h with ⟨_, -, rfl⟩ | ⟨-, rfl⟩ | ⟨_, -, h⟩
  · exact ⟨hs, rfl⟩
  · exact ⟨sramWrite_wf hs a v, rfl⟩
  · obtain ⟨h1, h2⟩ := ioWrite_memories h
    exact ⟨by rw [h1]; exact hs, h2⟩

end Sys2Proof.Machine
end

