-- ==== Sys2Proof/Laws/PerInstr.lean ====
section
/-! SUPPORT. Per-instruction families (LAWS.json). `Spelling`: another spelling is well formed exactly as its canonical
instruction is, the canonical instruction is its own canonical one, and both have one word (30_encoding.md R92). -/

namespace Sys2Proof.Laws.Spelling

/-- What 30_encoding.md R92 says of the spellings of one word, for one instruction as syntax. -/
def Statement (i : Instr) : Prop :=
  i.WellFormed = true → i.canonical.WellFormed = true ∧ i.canonical.canonical = i.canonical ∧
    encode i = encode i.canonical

/-- `0xFF - K` is the complement of `K` (R120). -/
theorem cbr_word (d : Reg) (K : Byte) : encImm8 0b0111 d (0xFF - K) = encImm8 0b0111 d (~~~K) := by
  have h : 0xFF - K = ~~~K := by
    revert K
    decide
  rw [h]

/-- The word of SER is the word of LDI Rd,0xFF (R124). -/
theorem ser_word (d : Reg) : encode (.ser d) = encode (.ldi d 0xFF) := by
  revert d
  decide

/-- The word of ST Z,Rr is the word of STD Z+0,Rr (R188). -/
theorem stZ_word (r : Reg) : encode (.stZ r) = encode (.stdZ 0 r) := by
  revert r
  decide

theorem and (d : Reg) (r : Reg) : Statement (.and d r) := fun h => ⟨h, rfl, rfl⟩
theorem inc (d : Reg) : Statement (.inc d) := fun h => ⟨h, rfl, rfl⟩
theorem neg (d : Reg) : Statement (.neg d) := fun h => ⟨h, rfl, rfl⟩
theorem andi (d : Reg) (K : Byte) : Statement (.andi d K) := fun h => ⟨h, rfl, rfl⟩
theorem or (d : Reg) (r : Reg) : Statement (.or d r) := fun h => ⟨h, rfl, rfl⟩
theorem ori (d : Reg) (K : Byte) : Statement (.ori d K) := fun h => ⟨h, rfl, rfl⟩
theorem eor (d : Reg) (r : Reg) : Statement (.eor d r) := fun h => ⟨h, rfl, rfl⟩
theorem com (d : Reg) : Statement (.com d) := fun h => ⟨h, rfl, rfl⟩
theorem dec (d : Reg) : Statement (.dec d) := fun h => ⟨h, rfl, rfl⟩
theorem des (K : BitVec 4) : Statement (.des K) := fun h => ⟨h, rfl, rfl⟩
theorem sbr (d : Reg) (K : Byte) : Statement (.sbr d K) := fun h => ⟨h, rfl, rfl⟩
theorem cbr (d : Reg) (K : Byte) : Statement (.cbr d K) := fun h => ⟨h, rfl, cbr_word d K⟩
theorem tst (d : Reg) : Statement (.tst d) := fun h => ⟨h, rfl, rfl⟩
theorem clr (d : Reg) : Statement (.clr d) := fun h => ⟨h, rfl, rfl⟩
theorem ser (d : Reg) : Statement (.ser d) := fun h => ⟨h, rfl, ser_word d⟩
theorem fmulsu (d : Reg) (r : Reg) : Statement (.fmulsu d r) := fun h => ⟨h, rfl, rfl⟩
theorem mul (d : Reg) (r : Reg) : Statement (.mul d r) := fun h => ⟨h, rfl, rfl⟩
theorem muls (d : Reg) (r : Reg) : Statement (.muls d r) := fun h => ⟨h, rfl, rfl⟩
theorem mulsu (d : Reg) (r : Reg) : Statement (.mulsu d r) := fun h => ⟨h, rfl, rfl⟩
theorem fmul (d : Reg) (r : Reg) : Statement (.fmul d r) := fun h => ⟨h, rfl, rfl⟩
theorem fmuls (d : Reg) (r : Reg) : Statement (.fmuls d r) := fun h => ⟨h, rfl, rfl⟩
theorem rjmp (k : BitVec 12) : Statement (.rjmp k) := fun h => ⟨h, rfl, rfl⟩
theorem ijmp : Statement .ijmp := fun h => ⟨h, rfl, rfl⟩
theorem brbs (f : Flag) (k : BitVec 7) : Statement (.brbs f k) := fun h => ⟨h, rfl, rfl⟩
theorem brbc (f : Flag) (k : BitVec 7) : Statement (.brbc f k) := fun h => ⟨h, rfl, rfl⟩
theorem breq (k : BitVec 7) : Statement (.breq k) := fun h => ⟨h, rfl, rfl⟩
theorem brne (k : BitVec 7) : Statement (.brne k) := fun h => ⟨h, rfl, rfl⟩
theorem brcs (k : BitVec 7) : Statement (.brcs k) := fun h => ⟨h, rfl, rfl⟩
theorem brlo (k : BitVec 7) : Statement (.brlo k) := fun h => ⟨h, rfl, rfl⟩
theorem brcc (k : BitVec 7) : Statement (.brcc k) := fun h => ⟨h, rfl, rfl⟩
theorem brsh (k : BitVec 7) : Statement (.brsh k) := fun h => ⟨h, rfl, rfl⟩
theorem brmi (k : BitVec 7) : Statement (.brmi k) := fun h => ⟨h, rfl, rfl⟩
theorem brpl (k : BitVec 7) : Statement (.brpl k) := fun h => ⟨h, rfl, rfl⟩
theorem brlt (k : BitVec 7) : Statement (.brlt k) := fun h => ⟨h, rfl, rfl⟩
theorem brge (k : BitVec 7) : Statement (.brge k) := fun h => ⟨h, rfl, rfl⟩
theorem ldX (d : Reg) : Statement (.ldX d) := fun h => ⟨h, rfl, rfl⟩
theorem ldXInc (d : Reg) : Statement (.ldXInc d) := fun h => ⟨h, rfl, rfl⟩
theorem ldDecX (d : Reg) : Statement (.ldDecX d) := fun h => ⟨h, rfl, rfl⟩
theorem stZInc (r : Reg) : Statement (.stZInc r) := fun h => ⟨h, rfl, rfl⟩
theorem stDecZ (r : Reg) : Statement (.stDecZ r) := fun h => ⟨h, rfl, rfl⟩
theorem stdZ (q : BitVec 6) (r : Reg) : Statement (.stdZ q r) := fun h => ⟨h, rfl, rfl⟩
theorem elpm : Statement .elpm := fun h => ⟨h, rfl, rfl⟩
theorem elpmZ (d : Reg) : Statement (.elpmZ d) := fun h => ⟨h, rfl, rfl⟩
theorem elpmZInc (d : Reg) : Statement (.elpmZInc d) := fun h => ⟨h, rfl, rfl⟩
theorem lpmZInc (d : Reg) : Statement (.lpmZInc d) := fun h => ⟨h, rfl, rfl⟩
theorem spm : Statement .spm := fun h => ⟨h, rfl, rfl⟩
theorem spmZInc : Statement .spmZInc := fun h => ⟨h, rfl, rfl⟩
theorem ioIn (d : Reg) (A : BitVec 6) : Statement (.ioIn d A) := fun h => ⟨h, rfl, rfl⟩
theorem ioOut (A : BitVec 6) (r : Reg) : Statement (.ioOut A r) := fun h => ⟨h, rfl, rfl⟩
theorem push (r : Reg) : Statement (.push r) := fun h => ⟨h, rfl, rfl⟩
theorem pop (d : Reg) : Statement (.pop d) := fun h => ⟨h, rfl, rfl⟩
theorem xch (d : Reg) : Statement (.xch d) := fun h => ⟨h, rfl, rfl⟩
theorem las (d : Reg) : Statement (.las d) := fun h => ⟨h, rfl, rfl⟩
theorem lac (d : Reg) : Statement (.lac d) := fun h => ⟨h, rfl, rfl⟩
theorem lat (d : Reg) : Statement (.lat d) := fun h => ⟨h, rfl, rfl⟩
theorem stZ (r : Reg) : Statement (.stZ r) := fun _ => ⟨rfl, rfl, stZ_word r⟩
theorem asr (d : Reg) : Statement (.asr d) := fun h => ⟨h, rfl, rfl⟩
theorem lsr (d : Reg) : Statement (.lsr d) := fun h => ⟨h, rfl, rfl⟩
theorem bset (f : Flag) : Statement (.bset f) := fun h => ⟨h, rfl, rfl⟩
theorem bclr (f : Flag) : Statement (.bclr f) := fun h => ⟨h, rfl, rfl⟩
theorem lsl (d : Reg) : Statement (.lsl d) := fun h => ⟨h, rfl, rfl⟩
theorem seh : Statement .seh := fun h => ⟨h, rfl, rfl⟩
theorem clh : Statement .clh := fun h => ⟨h, rfl, rfl⟩
theorem sec : Statement .sec := fun h => ⟨h, rfl, rfl⟩
theorem sez : Statement .sez := fun h => ⟨h, rfl, rfl⟩
theorem sen : Statement .sen := fun h => ⟨h, rfl, rfl⟩
theorem sev : Statement .sev := fun h => ⟨h, rfl, rfl⟩
theorem ses : Statement .ses := fun h => ⟨h, rfl, rfl⟩
theorem setT : Statement .setT := fun h => ⟨h, rfl, rfl⟩
theorem sei : Statement .sei := fun h => ⟨h, rfl, rfl⟩
theorem clc : Statement .clc := fun h => ⟨h, rfl, rfl⟩
theorem nop : Statement .nop := fun h => ⟨h, rfl, rfl⟩
theorem brk : Statement .brk := fun h => ⟨h, rfl, rfl⟩
theorem sleep : Statement .sleep := fun h => ⟨h, rfl, rfl⟩
theorem wdr : Statement .wdr := fun h => ⟨h, rfl, rfl⟩
theorem add (d : Reg) (r : Reg) : Statement (.add d r) := fun h => ⟨h, rfl, rfl⟩
theorem adc (d : Reg) (r : Reg) : Statement (.adc d r) := fun h => ⟨h, rfl, rfl⟩
theorem sub (d : Reg) (r : Reg) : Statement (.sub d r) := fun h => ⟨h, rfl, rfl⟩
theorem sbc (d : Reg) (r : Reg) : Statement (.sbc d r) := fun h => ⟨h, rfl, rfl⟩
theorem cpi (d : Reg) (K : Byte) : Statement (.cpi d K) := fun h => ⟨h, rfl, rfl⟩
theorem ldi (d : Reg) (K : Byte) : Statement (.ldi d K) := fun h => ⟨h, rfl, rfl⟩
theorem mov (d : Reg) (r : Reg) : Statement (.mov d r) := fun h => ⟨h, rfl, rfl⟩
theorem movw (d : Reg) (r : Reg) : Statement (.movw d r) := fun h => ⟨h, rfl, rfl⟩

end Sys2Proof.Laws.Spelling
end

