-- ==== Sys2Proof/Tests/Slice0.lean ====
section
/-! SUPPORT. The model's own tests: ill-formed terms are refused, words decode to what they stand for, single steps give
the values of 95_test_vectors.md, and every statement with hypotheses has a state that meets them (theorems
`witness_<statement>`). -/

namespace Sys2Proof.Tests

open Sys2Proof.Machine

-- Well-formedness: one ill-formed term for each check (the operand ranges of the rules)

theorem test_wf_andi : (Instr.andi 15 1).WellFormed = false := by decide
theorem test_wf_ori : (Instr.ori 0 1).WellFormed = false := by decide
theorem test_wf_sbr : (Instr.sbr 15 1).WellFormed = false := by decide
theorem test_wf_cbr : (Instr.cbr 15 1).WellFormed = false := by decide
theorem test_wf_ser : (Instr.ser 15).WellFormed = false := by decide
theorem test_wf_cpi : (Instr.cpi 15 1).WellFormed = false := by decide
theorem test_wf_ldi : (Instr.ldi 15 1).WellFormed = false := by decide
theorem test_wf_fmulsu :
    (Instr.fmulsu 24 16).WellFormed = false ∧ (Instr.fmulsu 16 15).WellFormed = false := by decide
theorem test_wf_mulsu : (Instr.mulsu 24 16).WellFormed = false ∧ (Instr.mulsu 16 15).WellFormed = false := by decide
theorem test_wf_fmul : (Instr.fmul 24 16).WellFormed = false ∧ (Instr.fmul 16 15).WellFormed = false := by decide
theorem test_wf_fmuls : (Instr.fmuls 24 16).WellFormed = false ∧ (Instr.fmuls 16 15).WellFormed = false := by decide
theorem test_wf_muls : (Instr.muls 15 16).WellFormed = false ∧ (Instr.muls 16 15).WellFormed = false := by decide
theorem test_wf_movw : (Instr.movw 1 0).WellFormed = false ∧ (Instr.movw 0 31).WellFormed = false := by decide

-- Decoding and encoding, every constructor

/-- Words written out bit by bit from the encodings of spec/opcode_table.json (40_arith_logic.md). -/
theorem test_decodeArithLogic :
    decodeTableWord 16 0b0010001101100001 = some (.and 22 17) ∧ encode (.and 22 17) = 0b0010001101100001 ∧
    decodeTableWord 16 0b1001010101100011 = some (.inc 22) ∧ encode (.inc 22) = 0b1001010101100011 ∧
    decodeTableWord 16 0b1001010010110001 = some (.neg 11) ∧ encode (.neg 11) = 0b1001010010110001 ∧
    decodeTableWord 16 0b0111101001100101 = some (.andi 22 0xA5) ∧ encode (.andi 22 0xA5) = 0b0111101001100101 ∧
    decodeTableWord 16 0b0010101101100001 = some (.or 22 17) ∧ encode (.or 22 17) = 0b0010101101100001 ∧
    decodeTableWord 16 0b0110101001100101 = some (.ori 22 0xA5) ∧ encode (.ori 22 0xA5) = 0b0110101001100101 ∧
    decodeTableWord 16 0b0010011101100001 = some (.eor 22 17) ∧ encode (.eor 22 17) = 0b0010011101100001 ∧
    decodeTableWord 16 0b1001010001000000 = some (.com 4) ∧ encode (.com 4) = 0b1001010001000000 ∧
    decodeTableWord 16 0b1001010100101010 = some (.dec 18) ∧ encode (.dec 18) = 0b1001010100101010 ∧
    decodeTableWord 16 0b1001010010011011 = some (.des 9) ∧ encode (.des 9) = 0b1001010010011011 ∧
    decodeTableWord 16 0b0110101001100101 = some (.ori 22 0xA5) ∧ encode (.sbr 22 0xA5) = 0b0110101001100101 ∧
    decodeTableWord 16 0b0111010101101010 = some (.andi 22 0x5A) ∧ encode (.cbr 22 0xA5) = 0b0111010101101010 ∧
    decodeTableWord 16 0b0010001101010101 = some (.and 21 21) ∧ encode (.tst 21) = 0b0010001101010101 ∧
    decodeTableWord 16 0b0010011101100110 = some (.eor 22 22) ∧ encode (.clr 22) = 0b0010011101100110 ∧
    decodeTableWord 16 0b1110111100111111 = some (.ldi 19 0xFF) ∧ encode (.ser 19) = 0b1110111100111111 := by decide

/-- Words written out bit by bit from the encodings of spec/opcode_table.json (41_multiply.md). -/
theorem test_decodeMultiply :
    decodeTableWord 16 0b0000001111101001 = some (.fmulsu 22 17) ∧ encode (.fmulsu 22 17) = 0b0000001111101001 ∧
    decodeTableWord 16 0b1001111101100001 = some (.mul 22 17) ∧ encode (.mul 22 17) = 0b1001111101100001 ∧
    decodeTableWord 16 0b0000001011100011 = some (.muls 30 19) ∧ encode (.muls 30 19) = 0b0000001011100011 ∧
    decodeTableWord 16 0b0000001101100001 = some (.mulsu 22 17) ∧ encode (.mulsu 22 17) = 0b0000001101100001 ∧
    decodeTableWord 16 0b0000001101101001 = some (.fmul 22 17) ∧ encode (.fmul 22 17) = 0b0000001101101001 ∧
    decodeTableWord 16 0b0000001111100001 = some (.fmuls 22 17) ∧ encode (.fmuls 22 17) = 0b0000001111100001 := by decide

/-- Words written out bit by bit from the encodings of spec/opcode_table.json (42_branch.md). -/
theorem test_decodeBranch :
    decodeTableWord 16 0b1100111111111101 = some (.rjmp (-3)) ∧ encode (.rjmp (-3)) = 0b1100111111111101 ∧
    decodeTableWord 16 0b1001010000001001 = some (.ijmp) ∧ encode (.ijmp) = 0b1001010000001001 ∧
    decodeTableWord 16 0b1111000000010110 = some (.brbs .t 2) ∧ encode (.brbs .t 2) = 0b1111000000010110 ∧
    decodeTableWord 16 0b1111011111101001 = some (.brbc .z (-3)) ∧ encode (.brbc .z (-3)) = 0b1111011111101001 ∧
    decodeTableWord 16 0b1111001000101001 = some (.brbs .z (-59)) ∧ encode (.breq (-59)) = 0b1111001000101001 ∧
    decodeTableWord 16 0b1111011000101001 = some (.brbc .z (-59)) ∧ encode (.brne (-59)) = 0b1111011000101001 ∧
    decodeTableWord 16 0b1111001000101000 = some (.brbs .c (-59)) ∧ encode (.brcs (-59)) = 0b1111001000101000 ∧
    decodeTableWord 16 0b1111001000101000 = some (.brbs .c (-59)) ∧ encode (.brlo (-59)) = 0b1111001000101000 ∧
    decodeTableWord 16 0b1111011000101000 = some (.brbc .c (-59)) ∧ encode (.brcc (-59)) = 0b1111011000101000 ∧
    decodeTableWord 16 0b1111011000101000 = some (.brbc .c (-59)) ∧ encode (.brsh (-59)) = 0b1111011000101000 ∧
    decodeTableWord 16 0b1111001000101010 = some (.brbs .n (-59)) ∧ encode (.brmi (-59)) = 0b1111001000101010 ∧
    decodeTableWord 16 0b1111011000101010 = some (.brbc .n (-59)) ∧ encode (.brpl (-59)) = 0b1111011000101010 ∧
    decodeTableWord 16 0b1111001000101100 = some (.brbs .s (-59)) ∧ encode (.brlt (-59)) = 0b1111001000101100 ∧
    decodeTableWord 16 0b1111011000101100 = some (.brbc .s (-59)) ∧ encode (.brge (-59)) = 0b1111011000101100 := by decide

/-- Words written out bit by bit from the encodings of spec/opcode_table.json (43_data_transfer.md). -/
theorem test_decodeDataTransfer :
    decodeTableWord 16 0b1001000100111100 = some (.ldX 19) ∧ encode (.ldX 19) = 0b1001000100111100 ∧
    decodeTableWord 16 0b1001000100111101 = some (.ldXInc 19) ∧ encode (.ldXInc 19) = 0b1001000100111101 ∧
    decodeTableWord 16 0b1001000100111110 = some (.ldDecX 19) ∧ encode (.ldDecX 19) = 0b1001000100111110 ∧
    decodeTableWord 16 0b1001001100110001 = some (.stZInc 19) ∧ encode (.stZInc 19) = 0b1001001100110001 ∧
    decodeTableWord 16 0b1001001100110010 = some (.stDecZ 19) ∧ encode (.stDecZ 19) = 0b1001001100110010 ∧
    decodeTableWord 16 0b1010011101000011 = some (.stdZ 43 20) ∧ encode (.stdZ 43 20) = 0b1010011101000011 ∧
    decodeTableWord 16 0b1001010111011000 = some (.elpm) ∧ encode (.elpm) = 0b1001010111011000 ∧
    decodeTableWord 16 0b1001000100110110 = some (.elpmZ 19) ∧ encode (.elpmZ 19) = 0b1001000100110110 ∧
    decodeTableWord 16 0b1001000100110111 = some (.elpmZInc 19) ∧ encode (.elpmZInc 19) = 0b1001000100110111 ∧
    decodeTableWord 16 0b1001000100110101 = some (.lpmZInc 19) ∧ encode (.lpmZInc 19) = 0b1001000100110101 ∧
    decodeTableWord 16 0b1001010111101000 = some (.spm) ∧ encode (.spm) = 0b1001010111101000 ∧
    decodeTableWord 16 0b1001010111111000 = some (.spmZInc) ∧ encode (.spmZInc) = 0b1001010111111000 ∧
    decodeTableWord 16 0b1011010100001101 = some (.ioIn 16 45) ∧ encode (.ioIn 16 45) = 0b1011010100001101 ∧
    decodeTableWord 16 0b1011101111000010 = some (.ioOut 18 28) ∧ encode (.ioOut 18 28) = 0b1011101111000010 ∧
    decodeTableWord 16 0b1001001100111111 = some (.push 19) ∧ encode (.push 19) = 0b1001001100111111 ∧
    decodeTableWord 16 0b1001000100111111 = some (.pop 19) ∧ encode (.pop 19) = 0b1001000100111111 ∧
    decodeTableWord 16 0b1001001100110100 = some (.xch 19) ∧ encode (.xch 19) = 0b1001001100110100 ∧
    decodeTableWord 16 0b1001001100110101 = some (.las 19) ∧ encode (.las 19) = 0b1001001100110101 ∧
    decodeTableWord 16 0b1001001100110110 = some (.lac 19) ∧ encode (.lac 19) = 0b1001001100110110 ∧
    decodeTableWord 16 0b1001001100110111 = some (.lat 19) ∧ encode (.lat 19) = 0b1001001100110111 ∧
    decodeTableWord 16 0b1000001000010000 = some (.stdZ 0 1) ∧ encode (.stZ 1) = 0b1000001000010000 := by decide

/-- Words written out bit by bit from the encodings of spec/opcode_table.json (44_shift_bit.md). -/
theorem test_decodeShiftBit :
    decodeTableWord 16 0b1001010100010101 = some (.asr 17) ∧ encode (.asr 17) = 0b1001010100010101 ∧
    decodeTableWord 16 0b1001010100000110 = some (.lsr 16) ∧ encode (.lsr 16) = 0b1001010100000110 ∧
    decodeTableWord 16 0b1001010001011000 = some (.bset .h) ∧ encode (.bset .h) = 0b1001010001011000 ∧
    decodeTableWord 16 0b1001010011101000 = some (.bclr .t) ∧ encode (.bclr .t) = 0b1001010011101000 ∧
    decodeTableWord 16 0b0000111100110011 = some (.add 19 19) ∧ encode (.lsl 19) = 0b0000111100110011 ∧
    decodeTableWord 16 0b1001010001011000 = some (.bset .h) ∧ encode (.seh) = 0b1001010001011000 ∧
    decodeTableWord 16 0b1001010011011000 = some (.bclr .h) ∧ encode (.clh) = 0b1001010011011000 ∧
    decodeTableWord 16 0b1001010000001000 = some (.bset .c) ∧ encode (.sec) = 0b1001010000001000 ∧
    decodeTableWord 16 0b1001010000011000 = some (.bset .z) ∧ encode (.sez) = 0b1001010000011000 ∧
    decodeTableWord 16 0b1001010000101000 = some (.bset .n) ∧ encode (.sen) = 0b1001010000101000 ∧
    decodeTableWord 16 0b1001010000111000 = some (.bset .v) ∧ encode (.sev) = 0b1001010000111000 ∧
    decodeTableWord 16 0b1001010001001000 = some (.bset .s) ∧ encode (.ses) = 0b1001010001001000 ∧
    decodeTableWord 16 0b1001010001101000 = some (.bset .t) ∧ encode (.setT) = 0b1001010001101000 ∧
    decodeTableWord 16 0b1001010001111000 = some (.bset .i) ∧ encode (.sei) = 0b1001010001111000 ∧
    decodeTableWord 16 0b1001010010001000 = some (.bclr .c) ∧ encode (.clc) = 0b1001010010001000 := by decide

/-- Words written out bit by bit from the encodings of spec/opcode_table.json (45_mcu_control.md). -/
theorem test_decodeMcuControl :
    decodeTableWord 16 0b0000000000000000 = some (.nop) ∧ encode (.nop) = 0b0000000000000000 ∧
    decodeTableWord 16 0b1001010110011000 = some (.brk) ∧ encode (.brk) = 0b1001010110011000 ∧
    decodeTableWord 16 0b1001010110001000 = some (.sleep) ∧ encode (.sleep) = 0b1001010110001000 ∧
    decodeTableWord 16 0b1001010110101000 = some (.wdr) ∧ encode (.wdr) = 0b1001010110101000 := by decide

/-- Words written out bit by bit from the encodings of spec/opcode_table.json (46_supplement.md). -/
theorem test_decodeSupplement :
    decodeTableWord 16 0b0000111101100001 = some (.add 22 17) ∧ encode (.add 22 17) = 0b0000111101100001 ∧
    decodeTableWord 16 0b0001111101100001 = some (.adc 22 17) ∧ encode (.adc 22 17) = 0b0001111101100001 ∧
    decodeTableWord 16 0b0001101101100001 = some (.sub 22 17) ∧ encode (.sub 22 17) = 0b0001101101100001 ∧
    decodeTableWord 16 0b0000101101100001 = some (.sbc 22 17) ∧ encode (.sbc 22 17) = 0b0000101101100001 ∧
    decodeTableWord 16 0b0011101001100101 = some (.cpi 22 0xA5) ∧ encode (.cpi 22 0xA5) = 0b0011101001100101 ∧
    decodeTableWord 16 0b1110101001100101 = some (.ldi 22 0xA5) ∧ encode (.ldi 22 0xA5) = 0b1110101001100101 ∧
    decodeTableWord 16 0b0010111101100001 = some (.mov 22 17) ∧ encode (.mov 22 17) = 0b0010111101100001 ∧
    decodeTableWord 16 0b0000000110011100 = some (.movw 18 24) ∧ encode (.movw 18 24) = 0b0000000110011100 := by decide

/-- R91, R262: words of tier-M instructions and words of no instruction are rejected: RET, CALL's first word, an `Rd5` word
with an unused low field. -/
theorem test_decodeUnknown :
    decodeTableWord 16 0x9508 = none ∧ decodeTableWord 16 0x940E = none ∧ decodeTableWord 16 0x940F = none ∧
    decodeTableWord 16 0x9404 = none ∧ decodeTableWord 16 0xFFFF = none := by decide

-- States

/-- A device with everything the opcode table can need: `AVRxm`, DES, the RAMP registers, EIND, SPM, the CPU's registers as
I/O locations and one device outside the CPU. -/
def fullDevice : Device :=
  { resetDevice with
    core := .avrxm
    hasDes := true
    hasRamp := true
    hasEind := true
    hasSpm := true
    io := (0x10, .device) :: cpuIoMap }

/-- A device without the optional parts, with a window onto program memory in data space. -/
def smallDevice : Device :=
  { resetDevice with
    core := .avrrc
    hasMul := false
    hasMovw := false
    map := { base := 0x400, size := 0x100, kind := .prog 0 } :: defaultMap 0x08FF }

/-- A device with 128 KB of data space, of which the RAMP registers reach the upper half (R31). -/
def bigDevice : Device := { fullDevice with ramend := 0x1FFFF, map := defaultMap 0x1FFFF }

/-- A device without the RAMP registers and EIND, whose I/O map nonetheless names them. -/
def lackingDevice : Device := { resetDevice with io := cpuIoMap }

/-- The state after reset with a device, `rs` in registers, and SP. -/
def start (dev : Device) (rs : List (Reg × Byte)) (sp : Word) : State :=
  rs.foldl (fun s e => s.setReg e.1 e.2) { State.reset with dev := dev, sp := sp }

/-- Bytes in SRAM and words in program memory. -/
def withData (s : State) (ms : List (Nat × Byte)) (ps : List (Nat × Word)) : State := { s with mem := ms, prog := ps }

/-- SREG from a byte (R27). -/
def withSreg (s : State) (b : Byte) : State := { s with sreg := Sreg.ofByte b }

/-- What holds of the next state, if there is one. -/
def nextHas (r : Res State) (p : State → Bool) : Bool :=
  match r with
  | .next t => p t
  | .fault _ => false
  | .refused _ => false

-- Single steps: values of 95_test_vectors.md and the rules' examples

/-- R141: 0xC0 x 0x40 gives 0xE000 and C. -/
theorem test_fmulsu : nextHas (exec (.fmulsu 16 17) (start resetDevice [(16, 0xC0), (17, 0x40)] 0))
    (fun t => t.reg 1 == 0xE0 && t.reg 0 == 0x00 && t.sreg.toByte == 0x01 && t.pc == 1) = true := by decide

/-- R141: the operand read as signed and as unsigned is one register: 0xC0 x 0xC0 gives 0xA000. -/
theorem test_fmulsu_same : nextHas (exec (.fmulsu 18 18) (start resetDevice [(18, 0xC0)] 0))
    (fun t => t.reg 1 == 0xA0 && t.reg 0 == 0x00 && t.sreg.c) = true := by decide

/-- R147, R150: MULS 0xFF x 0x02 is 0xFFFE; FMULS 0x80 x 0x80 is 0x8000 without C. -/
theorem test_muls : nextHas (exec (.muls 16 17) (start resetDevice [(16, 0xFF), (17, 0x02)] 0))
    (fun t => t.reg 1 == 0xFF && t.reg 0 == 0xFE && t.sreg.c) = true := by decide
theorem test_fmuls : nextHas (exec (.fmuls 16 16) (start resetDevice [(16, 0x80)] 0))
    (fun t => t.reg 1 == 0x80 && t.reg 0 == 0x00 && !t.sreg.c) = true := by decide

/-- R146: the operands of MUL are read before R1:R0 is written. -/
theorem test_mul_low : nextHas (exec (.mul 0 1) (start resetDevice [(0, 0xFF), (1, 0xFF)] 0))
    (fun t => t.reg 1 == 0xFE && t.reg 0 == 0x01 && t.sreg.c) = true := by decide

/-- R112: 0x7F becomes 0x80, with N and V, S clear. -/
theorem test_inc : nextHas (exec (.inc 22) (start resetDevice [(22, 0x7F)] 0))
    (fun t => t.reg 22 == 0x80 && t.sreg.toByte == 0x0C) = true := by decide

/-- R113: NEG of 0x01 is 0xFF with H, S, N, C; of 0x80 is 0x80 with V, N, C. -/
theorem test_neg : nextHas (exec (.neg 11) (start resetDevice [(11, 0x01)] 0))
    (fun t => t.reg 11 == 0xFF && t.sreg.toByte == 0x35) = true := by decide
theorem test_neg_min : nextHas (exec (.neg 11) (start resetDevice [(11, 0x80)] 0))
    (fun t => t.reg 11 == 0x80 && t.sreg.toByte == 0x0D) = true := by decide

/-- R120: CBR clears the bits of K. -/
theorem test_cbr : nextHas (exec (.cbr 16 0xF0) (start resetDevice [(16, 0xA5)] 0)) (fun t => t.reg 16 == 0x05) = true := by
  decide

/-- Section 1.2 of 95_test_vectors.md: ASR of 0xFC is 0xFE with V and N. -/
theorem test_asr : nextHas (exec (.asr 17) (start resetDevice [(17, 0xFC)] 0))
    (fun t => t.reg 17 == 0xFE && t.sreg.toByte == 0x0C) = true := by decide

/-- R221: LSL of 0x08 is 0x10 with H alone. -/
theorem test_lsl : nextHas (exec (.lsl 0) (start resetDevice [(0, 0x08)] 0))
    (fun t => t.reg 0 == 0x10 && t.sreg.toByte == 0x20) = true := by decide

/-- R224: LSR of 0x01 is 0x00 with C, Z, V, S. -/
theorem test_lsr : nextHas (exec (.lsr 16) (start resetDevice [(16, 0x01)] 0))
    (fun t => t.reg 16 == 0x00 && t.sreg.toByte == 0x1B) = true := by decide

/-- R251: 0xFF + 0x00 + C is 0x00 with C, Z, H. -/
theorem test_adc : nextHas (exec (.adc 18 2) (withSreg (start resetDevice [(18, 0xFF)] 0) 0x01))
    (fun t => t.reg 18 == 0x00 && t.sreg.toByte == 0x23) = true := by decide

/-- R252: 0x05 - 0x07 is 0xFE with C, H, N, S. -/
theorem test_sub : nextHas (exec (.sub 11 0) (start resetDevice [(11, 0x05), (0, 0x07)] 0))
    (fun t => t.reg 11 == 0xFE && t.sreg.toByte == 0x35) = true := by decide

/-- R253: 0x10 - 0x00 - C is 0x0F with H alone: Z, set before, is cleared. -/
theorem test_sbc : nextHas (exec (.sbc 19 2) (withSreg (start resetDevice [(19, 0x10)] 0) 0x03))
    (fun t => t.reg 19 == 0x0F && t.sreg.toByte == 0x20) = true := by decide

/-- R254: 0x01 compared with 0x4F: C, H, N, S; the register keeps its value. -/
theorem test_cpi : nextHas (exec (.cpi 22 0x4F) (start resetDevice [(22, 0x01)] 0))
    (fun t => t.reg 22 == 0x01 && t.sreg.toByte == 0x35) = true := by decide

/-- R257: MOVW copies R1:R0 to R19:R18. -/
theorem test_movw : nextHas (exec (.movw 18 0) (start resetDevice [(0, 0x34), (1, 0x12)] 0))
    (fun t => t.reg 18 == 0x34 && t.reg 19 == 0x12) = true := by decide

/-- R160 to R163: RJMP 2 at 0x0010 goes to 0x0013, below zero it stops; BREQ 2 at 5 goes to 8 or to 6. -/
theorem test_rjmp : nextHas (exec (.rjmp 2) { State.reset with pc := 0x10 }) (fun t => t.pc == 0x13) = true := by decide
theorem test_rjmp_negative : exec (.rjmp (-2)) State.reset = .fault .pcOutOfRange := rfl
theorem test_brbs : nextHas (exec (.brbs .z 2) (withSreg { State.reset with pc := 5 } 0x02)) (fun t => t.pc == 8) = true := by
  decide
theorem test_brbs_not : nextHas (exec (.brbs .z 2) { State.reset with pc := 5 }) (fun t => t.pc == 6) = true := by decide

/-- R161: Z = 0x0123. -/
theorem test_ijmp : nextHas (exec .ijmp (start resetDevice [(31, 0x01), (30, 0x23)] 0)) (fun t => t.pc == 0x123) = true := by
  decide

/-- R185, R186: X+ with X = 0x00FF carries into R27; -X with X = 0x0063 reads 0x0062. -/
theorem test_ldXInc : nextHas (exec (.ldXInc 0) (withData (start resetDevice [(26, 0xFF)] 0) [(0xFF, 0xAB)] []))
    (fun t => t.reg 0 == 0xAB && t.ptrX == 0x0100) = true := by decide
theorem test_ldDecX : nextHas (exec (.ldDecX 3) (withData (start resetDevice [(26, 0x63)] 0) [(0x62, 0xAB)] []))
    (fun t => t.reg 3 == 0xAB && t.ptrX == 0x0062) = true := by decide

/-- R190, R191: -Z with Z = 0x0063 stores at 0x0062; Z+2 with Z = 0x0062 stores at 0x0064. -/
theorem test_stDecZ : nextHas (exec (.stDecZ 3) (start resetDevice [(30, 0x63), (3, 0xCD)] 0))
    (fun t => Memory.read t.mem 0x62 == some 0xCD && t.ptrZ == 0x0062) = true := by decide
theorem test_stdZ : nextHas (exec (.stdZ 2 4) (start resetDevice [(30, 0x62), (4, 0xCD)] 0))
    (fun t => t.mem == [(0x64, 0xCD)] && t.ptrZ == 0x0062) = true := by decide

/-- R205, R206: SP = 0x025F, 0xAB is pushed and popped. -/
theorem test_push : nextHas (exec (.push 16) (start resetDevice [(16, 0xAB)] 0x025F))
    (fun t => t.mem == [(0x25F, 0xAB)] && t.sp == 0x025E) = true := by decide
theorem test_pop : nextHas (exec (.pop 17) (withData (start resetDevice [] 0x025E) [(0x25F, 0xAB)] []))
    (fun t => t.reg 17 == 0xAB && t.sp == 0x025F) = true := by decide

/-- R196: Z = 0x0003 and `Prog(1) = 0xE410` give 0xE4. -/
theorem test_lpm : nextHas (exec (.lpmZInc 16) (withData (start resetDevice [(30, 0x03)] 0) [] [(1, 0xE410)]))
    (fun t => t.reg 16 == 0xE4 && t.ptrZ == 0x0004) = true := by decide

/-- R195: a carry out of Z goes into RAMPZ. -/
theorem test_elpm : nextHas (exec (.elpmZInc 16)
    (withData (start { fullDevice with flashend := 0xFFFF } [(30, 0xFF), (31, 0xFF)] 0) [] [(0x7FFF, 0xE410)]))
    (fun t => t.reg 16 == 0xE4 && t.ptrZ == 0x0000 && t.rampz == 0x01) = true := by decide

/-- R207 to R210: byte 0x0F with 0x3C (0xF0 for XCH). -/
theorem test_xch : nextHas (exec (.xch 16) (withData (start fullDevice [(30, 0x60), (16, 0xF0)] 0) [(0x60, 0x0F)] []))
    (fun t => t.mem == [(0x60, 0xF0)] && t.reg 16 == 0x0F) = true := by decide
theorem test_las : nextHas (exec (.las 16) (withData (start fullDevice [(30, 0x60), (16, 0x3C)] 0) [(0x60, 0x0F)] []))
    (fun t => t.mem == [(0x60, 0x3F)] && t.reg 16 == 0x0F) = true := by decide
theorem test_lac : nextHas (exec (.lac 16) (withData (start fullDevice [(30, 0x60), (16, 0x3C)] 0) [(0x60, 0x0F)] []))
    (fun t => t.mem == [(0x60, 0x03)] && t.reg 16 == 0x0F) = true := by decide
theorem test_lat : nextHas (exec (.lat 16) (withData (start fullDevice [(30, 0x60), (16, 0x3C)] 0) [(0x60, 0x0F)] []))
    (fun t => t.mem == [(0x60, 0x33)] && t.reg 16 == 0x0F) = true := by decide

/-- R31: RAMPX:X and RAMPZ:Z beyond 64 KB: a carry, a borrow and a displacement (log entry 14). -/
theorem test_ldXInc_carry : nextHas (exec (.ldXInc 3) ((withData (start bigDevice [(26, 0xFF), (27, 0xFF)] 0)
    [(0xFFFF, 0x21), (0x1FFFF, 0x43)] []).setRampx 0))
    (fun t => t.reg 3 == 0x21 && t.ptrX == 0 && t.rampx == 1) = true := by decide
theorem test_stDecZ_ramp : nextHas (exec (.stDecZ 16) ((start bigDevice [(16, 0x5A)] 0).setRampz 1))
    (fun t => Memory.read t.mem 0xFFFF == some 0x5A && t.ptrZ == 0xFFFF && t.rampz == 0) = true := by decide
theorem test_stdZ_ramp : nextHas (exec (.stdZ 2 16) ((start bigDevice [(30, 0x60), (16, 0x5A)] 0).setRampz 1))
    (fun t => Memory.read t.mem 0x10062 == some 0x5A && t.rampz == 1) = true := by decide
/-- R200: SPM Z+ writes R1:R0 to the word of byte address 4 and moves Z by 2. -/
theorem test_spm : nextHas (exec .spmZInc (start fullDevice [(30, 0x04), (0, 0x34), (1, 0x12)] 0))
    (fun t => t.prog == [(2, 0x1234)] && t.ptrZ == 0x0006) = true := by decide

/-- R202, D22: OUT to SREG's location changes all eight flags; IN reads them (R27). -/
theorem test_out_sreg : nextHas (exec (.ioOut 0x3F 16) (start fullDevice [(16, 0xA5)] 0))
    (fun t => t.sreg.i && !t.sreg.t && t.sreg.h && !t.sreg.s && !t.sreg.v && t.sreg.n && !t.sreg.z && t.sreg.c) = true := by
  decide
theorem test_in_sreg : nextHas (exec (.ioIn 16 0x3F) (withSreg (start fullDevice [] 0) 0xA5))
    (fun t => t.reg 16 == 0xA5) = true := by decide

/-- A step right after reset fetches the word placed at pc and runs it. -/
theorem test_step : nextHas (step (State.reset.withFetchWord 16 0xE001)) (fun t => t.reg 16 == 1 && t.pc == 1) = true := by
  decide

-- The memory's canonical form

theorem test_write_order :
    Memory.write (Memory.write (Memory.write [] 9 (1 : Byte)) 3 2) 9 4 = [(3, 2), (9, 4)] := by decide
theorem test_memory_not_wf : Memory.wf [(3, (2 : Byte)), (3, 1)] = false := by decide

-- Witnesses: each statement's hypotheses hold together in a concrete state

/-- X and Z at 0x0060, SP at 0x0060 unless given, one SRAM byte there, one program word at 0. -/
def atRam (dev : Device) : State :=
  withData (start dev [(26, 0x60), (30, 0x60), (16, 0xF0), (17, 0x40)] 0x60) [(0x60, 0x0F)] [(0, 0x0389), (0x30, 0xE410)]

/-- As `atRam`, on the full device. -/
def full : State := atRam fullDevice

/-- Z and SP at a register's address, 5, in data space. -/
def atReg : State := start fullDevice [(30, 5), (26, 5), (16, 0xF0)] 5

/-- Z and SP at the data-space address of SREG under `cpuIoMap`, 0x5F. -/
def atIo : State := start fullDevice [(30, 0x5F), (26, 0x5F), (16, 0xF0)] 0x5F

theorem witness_DecodeAfterEncode : (Instr.fmulsu 16 23).WellFormed = true := by decide
theorem witness_EncodeAfterDecode : decode 0x0389 = .ok (.fmulsu 16 17) := rfl
theorem witness_DisplacementField : decode 0xAE47 = .ok (.stdZ 63 4) := rfl

theorem witness_StepRunsDecoded : full.dev.endPc ≠ some full.pc ∧ full.pc ≤ full.dev.flashend ∧
    Memory.read full.prog full.pc = some 0x0389 ∧ decodeTableWord 16 0x0389 = some (.fmulsu 16 17) := by decide
theorem witness_StepStops_end :
    ({ fullDevice with endPc := some 0 } : Device).endPc = some (start fullDevice [] 0).pc := by decide
theorem witness_StepStops_beyond : ({ full with pc := 0x4000 } : State).dev.endPc ≠ some 0x4000 ∧
    full.dev.flashend < 0x4000 ∧ full.dev.flashend + 1 = 0x4000 := by decide
theorem witness_StepStops_unplaced : State.reset.dev.endPc ≠ some State.reset.pc ∧
    State.reset.pc ≤ State.reset.dev.flashend ∧ Memory.read State.reset.prog State.reset.pc = none := by decide
theorem witness_StepStops_unknown : Memory.read (placeWord full 0x9508).prog full.pc = some 0x9508 ∧
    opcodeRows.all (fun row => (0x9508#16 &&& row.mask) != row.pat) = true := by decide
theorem witness_StepKeepsInvariant_big : (atRam bigDevice).Inv = true := by decide
theorem witness_StepKeepsInvariant : full.Inv = true ∧ nextHas (step full) (fun _ => true) = true := by decide

theorem witness_FlagsFrame : nextHas (exec (.inc 22) full) (fun _ => true) = true ∧
    (ioWriteLoc (.inc 22) full).bind (Device.ioPort full.dev) ≠ some .sreg := by decide
theorem witness_FlagsFrame_store : nextHas (exec (.stZ 16) full) (fun _ => true) = true ∧
    (ioWriteLoc (.stZ 16) full).bind (Device.ioPort full.dev) ≠ some .sreg := by decide
theorem witness_SignFlagRule : nextHas (exec (.neg 16) full) (fun _ => true) = true ∧ Flag.s ∈ flagsWritten (.neg 16) ∧
    Instr.neg 16 ≠ .ses ∧ Instr.neg 16 ≠ .bset .s ∧ Instr.neg 16 ≠ .bclr .s := by decide
theorem witness_RegisterFrame : nextHas (exec (.stZInc 16) atReg) (fun _ => true) = true ∧
    (4 : Reg) ∉ regsNamed (.stZInc 16) ++ storedReg (.stZInc 16) atReg := by decide
theorem witness_SramFrame : nextHas (exec (.stDecZ 16) (full.setPtrZ 0x61)) (fun _ => true) = true ∧
    storesAt (.stDecZ 16) (full.setPtrZ 0x61) ≠ some 0x61 ∧
    storesAt (.stDecZ 16) (full.setPtrZ 0x61) = some 0x60 := by decide
theorem witness_SramFrame_none : nextHas (exec (.ldX 1) full) (fun _ => true) = true ∧
    storesAt (.ldX 1) full ≠ some 0x60 := by decide
theorem witness_SpecialFrame : nextHas (exec (.ioOut 0x10 16) full) (fun _ => true) = true ∧
    [IoPort.spl, .sph, .rampx, .rampy, .rampz, .rampd, .eind].all
      (fun p => (ioWriteLoc (.ioOut 0x10 16) full).bind (Device.ioPort full.dev) != some p) = true := by decide
theorem witness_SpecialFrame_device : nextHas (exec (.ioOut 0x3B 16) full) (fun _ => true) = true ∧
    (ioWriteLoc (.ioOut 0x3B 16) full).bind (Device.ioPort full.dev) ≠ some .device ∧
    (ioReadLoc (.ioOut 0x3B 16) full).bind (Device.ioPort full.dev) ≠ some .device := by decide
theorem witness_SpecialFrame_noRamp : smallDevice.hasRamp = false ∧
    nextHas (exec (.ldXInc 1) (atRam smallDevice)) (fun _ => true) = true ∧
    Device.ioPort smallDevice 0x39 = none ∧ Device.ioPort smallDevice 0x3B = none := by decide
theorem witness_NextPc : nextHas (exec (.pop 1) (withData full [(0x61, 1)] [])) (fun _ => true) = true ∧
    isBranch (.pop 1) = false := by decide
theorem witness_FlagIndependence : readsNoFlag (.ldX 1) = true ∧
    (ioReadLoc (.ldX 1) full).bind (Device.ioPort full.dev) ≠ some .sreg ∧
    (ioWriteLoc (.ldX 1) full).bind (Device.ioPort full.dev) ≠ some .sreg ∧
    nextHas (exec (.ldX 1) full) (fun _ => true) = true := by decide
theorem witness_ReadAfterWrite : nextHas (full.memWrite 0x61 7) (fun _ => true) = true ∧
    Device.classify full.dev 0x61 = .sram ∧ (0x60 : Nat) ≠ 0x61 := by decide
theorem witness_ReadAfterWrite_other : full.memRead 0x60 = .next (0x0F, full) := rfl
theorem witness_ReadAfterWrite_reg : nextHas (full.memWrite 31 7) (fun _ => true) = true ∧
    Device.classify full.dev 31 = .reg 31 := by decide

theorem witness_DesResult : full.dev.hasDes = true ∧ full.dev.core = .avrxm ∧ State.reset.dev.hasDes = false ∧
    State.reset.dev.core ≠ .avrxm := by decide
theorem witness_offersMul : Device.offersMul full.dev = true := by decide
theorem witness_FmulsuOverflow : nextHas (exec (.fmulsu 16 17) full) (fun t => t.reg 1 == 0xF8) = true := by decide
theorem witness_JumpResults : 0 ≤ (State.reset.pc : Int) + (-1 : BitVec 12).toInt + 1 ∧
    (State.reset.pc : Int) + (-2 : BitVec 12).toInt + 1 < 0 := by decide
theorem witness_FlagBranchResults : State.reset.sreg.get .z = false ∧
    0 ≤ (State.reset.pc : Int) + (-1 : BitVec 7).toInt + 1 ∧
    (State.reset.pc : Int) + (-2 : BitVec 7).toInt + 1 < 0 ∧ State.reset.sreg.get .z ≠ true := by decide
theorem witness_NamedBranchResults : (Instr.brge (-1), Flag.s, false) ∈ [(Instr.breq (-1), Flag.z, true),
    (.brge (-1), .s, false)] ∧ State.reset.sreg.get .s = false ∧ State.reset.sreg.get .z ≠ true ∧
    0 ≤ (State.reset.pc : Int) + (-1 : BitVec 7).toInt + 1 ∧
    (State.reset.pc : Int) + (-2 : BitVec 7).toInt + 1 < 0 := by decide

theorem witness_PointerAddresses : State.reset.dev.hasRamp = false ∧ full.dev.hasRamp = true ∧
    addrDecX State.reset = 0xFFFF ∧ addrDecZ (start bigDevice [] 0) = 0xFFFFFF ∧
    addrZq ((full.setPtrZ 0xFFFF).setRampz 0xFF) 63 = 0x100003E := by decide
theorem witness_DataSpaceByClass : full.dev.ramend < 0x900 ∧ Device.classify full.dev 0x900 = .unmapped ∧
    Device.classify full.dev 0 = .reg 0 ∧ Device.classify full.dev 31 = .reg 31 ∧
    Device.classify full.dev 0x20 = .io 0 ∧ Device.classify full.dev 0x5F = .io 0x3F ∧
    Device.classify full.dev 0x60 = .sram ∧ Memory.read full.mem 0x60 = some 0x0F ∧
    Device.classify full.dev 0x8FF = .sram ∧ Memory.read full.mem 0x8FF = none := by decide
theorem witness_DataSpaceByClass_prog : Device.classify smallDevice 0x403 = .progByte 3 ∧
    smallDevice.progMapped = false ∧ ({ smallDevice with progMapped := true } : Device).progMapped = true ∧
    3 / 2 ≤ smallDevice.flashend ∧ Memory.read [(1, (0xE410 : Word))] (3 / 2) = some 0xE410 ∧
    Memory.read ([] : List (Nat × Word)) (3 / 2) = none ∧
    ({ smallDevice with flashend := 0 } : Device).flashend < 3 / 2 := by decide
theorem witness_LoadResults : full.memRead (addrX full) = .next (0x0F, full) ∧ isHalfOfX 25 = false ∧
    isHalfOfX 28 = false := ⟨rfl, rfl, rfl⟩
theorem witness_LoadResults_dec :
    (full.setPtrX 0x61).memRead (addrDecX (full.setPtrX 0x61)) = .next (0x0F, full.setPtrX 0x61) := rfl
theorem witness_AccessStops_readFault :
    (full.setPtrX 0x900).memRead (addrX (full.setPtrX 0x900)) = .fault .dataOutOfRange ∧
    (full.setPtrX 0).memRead (addrDecX (full.setPtrX 0)) = .fault .dataOutOfRange ∧
    (start resetDevice [] 0x8FF).memRead ((start resetDevice [] 0x8FF).sp.toNat + 1) = .fault .dataOutOfRange :=
  ⟨rfl, rfl, rfl⟩
theorem witness_AccessStops_readRefused :
    (start resetDevice [(26, 0x20)] 0).memRead (addrX (start resetDevice [(26, 0x20)] 0)) = .refused .ioAccess ∧
    (start resetDevice [(26, 0x60)] 0).memRead (addrDecX (start resetDevice [(26, 0x60)] 0)) = .refused .ioAccess ∧
    (start resetDevice [] 0x1F).memRead ((start resetDevice [] 0x1F).sp.toNat + 1) = .refused .ioAccess :=
  ⟨rfl, rfl, rfl⟩
theorem witness_AccessStops_writeFault :
    (full.setPtrZ 0x900).memWrite (addrZ (full.setPtrZ 0x900)) 0 = .fault .dataOutOfRange ∧
    (full.setPtrZ 0).memWrite (addrDecZ (full.setPtrZ 0)) 0 = .fault .dataOutOfRange ∧
    (full.setPtrZ 0x8FF).memWrite (addrZq (full.setPtrZ 0x8FF) 1) 0 = .fault .dataOutOfRange ∧
    (start resetDevice [] 0x900).memWrite 0x900 0 = .fault .dataOutOfRange ∧ (start resetDevice [] 0x900).sp ≠ 0 :=
  ⟨rfl, rfl, rfl, rfl, by decide⟩
theorem witness_AccessStops_writeRefused :
    (start resetDevice [(30, 0x20)] 0).memWrite (addrZ (start resetDevice [(30, 0x20)] 0)) 0 = .refused .ioAccess ∧
    (start resetDevice [(30, 0x60)] 0).memWrite (addrDecZ (start resetDevice [(30, 0x60)] 0)) 0 = .refused .ioAccess ∧
    (start resetDevice [(30, 0x1F)] 0).memWrite (addrZq (start resetDevice [(30, 0x1F)] 0) 1) 0 = .refused .ioAccess ∧
    Device.offersStd resetDevice 1 = true ∧ (start resetDevice [] 0x20).memWrite 0x20 0 = .refused .ioAccess :=
  ⟨rfl, rfl, rfl, rfl, rfl⟩
theorem witness_PointerConflictRefused : full.dev.core ≠ .avrrc ∧ full.dev.hasRamp = true ∧
    isHalfOfX 26 = true ∧ isHalfOfX 27 = true ∧ isHalfOfZ 30 = true ∧ isHalfOfZ 31 = true := by decide
theorem witness_StoreToSram : Device.classify full.dev (addrZ full) = .sram ∧ isHalfOfZ 29 = false ∧
    Device.classify full.dev (addrDecZ (full.setPtrZ 0x61)) = .sram ∧ full.dev.core ≠ .avrrc ∧
    Device.classify full.dev (addrZq (full.setPtrZ 0x8C0) 63) = .sram := by decide
theorem witness_StoreToRegister : Device.classify atReg.dev (addrZ atReg) = .reg 5 ∧ isHalfOfZ 16 = false ∧
    isHalfOfZ 5 = false ∧ Device.classify atReg.dev (addrDecZ atReg) = .reg 4 ∧
    Device.classify atReg.dev (addrZq atReg 26) = .reg 31 ∧ atReg.sp ≠ 0 ∧
    Device.classify atReg.dev atReg.sp.toNat = .reg 5 := by decide
theorem witness_StoreToIo : nextHas (atIo.ioWrite 0x3F (atIo.reg 16)) (fun _ => true) = true ∧
    Device.classify atIo.dev (addrZ atIo) = .io 0x3F ∧
    Device.classify atIo.dev (addrDecZ (atIo.setPtrZ 0x60)) = .io 0x3F ∧
    Device.classify atIo.dev (addrZq (atIo.setPtrZ 0x5E) 1) = .io 0x3F ∧ atIo.sp ≠ 0 ∧
    Device.classify atIo.dev atIo.sp.toNat = .io 0x3F := by decide
theorem witness_IoByPort : Device.ioPort fullDevice 0 = none ∧ Device.ioPort fullDevice 0x3F = some .sreg ∧
    Device.ioPort fullDevice 0x3D = some .spl ∧ Device.ioPort fullDevice 0x3E = some .sph ∧
    Device.ioPort fullDevice 0x3B = some .rampz ∧ Device.ioPort fullDevice 0x3C = some .eind ∧
    Device.ioPort fullDevice 0x39 = some .rampx ∧ Device.ioPort fullDevice 0x3A = some .rampy ∧
    Device.ioPort fullDevice 0x38 = some .rampd ∧ Device.ioPort fullDevice 0x10 = some .device := by decide
theorem witness_IoByPort_lacking : Device.ioPort lackingDevice 0x3B = some .rampz ∧
    Device.ioPort lackingDevice 0x3A = some .rampy ∧ Device.ioPort lackingDevice 0x39 = some .rampx ∧
    Device.ioPort lackingDevice 0x38 = some .rampd ∧ lackingDevice.hasRamp = false ∧
    Device.ioPort lackingDevice 0x3C = some .eind ∧ lackingDevice.hasEind = false ∧
    (start lackingDevice [] 0).ioRead 0x3B = .refused .ioAccess ∧
    (start lackingDevice [] 0).ioWrite 0x3C 1 = .refused .ioAccess := ⟨rfl, rfl, rfl, rfl, rfl, rfl, rfl, rfl, rfl⟩
theorem witness_IoByPort_spBits : nextHas ((start { fullDevice with spBits := 12 } [] 0x60).ioWrite 0x3E 0xFF)
    (fun t => t.sp == 0x0F60) = true := by decide
theorem witness_InOutResults : full.ioRead 0x3D = .next (0x60, full) ∧
    nextHas (full.ioWrite 0x3D 0x10) (fun t => t.sp == 0x10) = true ∧ full.ioRead 0 = .refused .ioAccess ∧
    full.ioWrite 0 1 = .refused .ioAccess := ⟨rfl, by decide, rfl, rfl⟩
theorem witness_PushResult : (start fullDevice [] 0).sp = 0 ∧ full.sp ≠ 0 ∧
    Device.classify full.dev full.sp.toNat = .sram := by decide
theorem witness_PopResult :
    (start fullDevice [] 30).memRead ((start fullDevice [] 30).sp.toNat + 1) = .next (0, start fullDevice [] 30) := rfl
theorem witness_PopResult_wrap :
    (withData (start bigDevice [] 0xFFFF) [(0x10000, 0x77)] []).memRead
      ((withData (start bigDevice [] 0xFFFF) [(0x10000, 0x77)] []).sp.toNat + 1) =
        .next (0x77, withData (start bigDevice [] 0xFFFF) [(0x10000, 0x77)] []) ∧
    nextHas (exec (.pop 3) (withData (start bigDevice [] 0xFFFF) [(0x10000, 0x77)] []))
      (fun t => t.reg 3 == 0x77 && t.sp == 0) = true := ⟨rfl, by decide⟩
theorem witness_ReadModifyWriteResults : full.dev.core = .avrxm ∧ Device.classify full.dev (addrZ full) = .sram ∧
    Memory.read full.mem (addrZ full) = some 0x0F ∧ State.reset.dev.core ≠ .avrxm ∧
    Memory.read (full.setPtrZ 0x61).mem (addrZ (full.setPtrZ 0x61)) = none ∧
    Device.classify full.dev (addrZ (full.setPtrZ 0x61)) = .sram ∧
    Device.classify full.dev (addrZ (full.setPtrZ 0x5F)) = .io 0x3F ∧
    Device.classify full.dev (addrZ (full.setPtrZ 0x1F)) = .reg 31 ∧
    Device.classify full.dev (addrZ (full.setPtrZ 0x900)) = .unmapped := by decide
theorem witness_LpmResult : full.dev.core ≠ .avrrc ∧ isHalfOfZ 29 = false ∧ full.ptrZ.toNat / 2 ≤ full.dev.flashend ∧
    Memory.read full.prog (full.ptrZ.toNat / 2) = some 0xE410 ∧
    full.dev.flashend < (full.setPtrZ 0x8000).ptrZ.toNat / 2 ∧ (full.setPtrZ 0x7FFF).ptrZ.toNat / 2 ≤ full.dev.flashend ∧
    Memory.read full.prog ((full.setPtrZ 0x7FFF).ptrZ.toNat / 2) = none := by decide
theorem witness_ElpmResults : full.dev.hasRamp = true ∧ full.dev.core ≠ .avrrc ∧
    (65536 * full.rampz.toNat + full.ptrZ.toNat) / 2 ≤ full.dev.flashend ∧
    Memory.read full.prog ((65536 * full.rampz.toNat + full.ptrZ.toNat) / 2) = some 0xE410 ∧ isHalfOfZ 29 = false := by decide
theorem witness_ElpmResults_stops :
    full.dev.flashend < (65536 * (full.setRampz 1).rampz.toNat + full.ptrZ.toNat) / 2 ∧
    (65536 * full.rampz.toNat + (full.setPtrZ 0x7FFF).ptrZ.toNat) / 2 ≤ full.dev.flashend ∧
    Memory.read full.prog ((65536 * full.rampz.toNat + (full.setPtrZ 0x7FFF).ptrZ.toNat) / 2) = none := by decide
theorem witness_SpmResults : full.dev.hasSpm = true ∧ full.dev.core ≠ .avrrc ∧
    (65536 * full.rampz.toNat + full.ptrZ.toNat) / 2 ≤ full.dev.flashend ∧
    full.dev.flashend < (65536 * (full.setRampz 1).rampz.toNat + full.ptrZ.toNat) / 2 := by decide
theorem witness_FlagInstructionResults : (Instr.clc, Flag.c, false) ∈ [(Instr.bset .i, Flag.i, true), (.clc, .c, false)] := by
  decide
theorem witness_UnavailableRefused : smallDevice.hasMul = false ∧ smallDevice.core = .avrrc ∧
    (1 : BitVec 6) ≠ 0 ∧ smallDevice.hasRamp = false ∧ smallDevice.hasSpm = false ∧ smallDevice.hasMovw = false ∧
    resetDevice.admitted = true ∧ fullDevice.admitted = false := by decide
theorem witness_SixteenBitArithmetic : (19 : Reg) ≠ 18 ∧ (1 : Reg) ≠ 18 := by decide
theorem witness_MoveResults : full.dev.hasMovw = true ∧ full.dev.core ≠ .avrrc := by decide

end Sys2Proof.Tests
end

section
/-! SUPPORT. The statements of 00_scope.md: StepKeepsInvariant and UnavailableRefused. The invariant without its bound
on pc is `State.Sound`. Each operation over the state keeps it (`KeepsSound`), and each way an instruction ends also moves
pc no further than a jump (`EndsSound`), so that the case split over the instructions only names the operations each is
made of. -/

namespace Sys2Proof.Machine

-- The invariant, taken apart

/-- The invariant but for its bound on pc: what no operation over the state breaks. -/
structure State.Sound (s : State) : Prop where
  dev : s.dev.WellFormed = true
  memWf : Memory.wf s.mem = true
  memSram : s.mem.all (fun e => Device.classify s.dev e.1 == .sram) = true
  progWf : Memory.wf s.prog = true
  progExists : s.prog.all (fun e => e.1 ≤ s.dev.flashend) = true
  sp : s.sp.toNat < 2 ^ s.dev.spBits

theorem inv_iff_sound (s : State) :
    s.Inv = true ↔ s.Sound ∧ s.pc ≤ max (s.dev.flashend + 2048) 0xFFFF := by
  simp only [State.Inv, Bool.and_eq_true, decide_eq_true_eq]
  constructor
  · rintro ⟨⟨⟨⟨⟨⟨dev, memWf⟩, memSram⟩, progWf⟩, progExists⟩, sp⟩, pc⟩
    exact ⟨⟨dev, memWf, memSram, progWf, progExists, sp⟩, pc⟩
  · rintro ⟨⟨dev, memWf, memSram, progWf, progExists, sp⟩, pc⟩
    exact ⟨⟨⟨⟨⟨⟨dev, memWf⟩, memSram⟩, progWf⟩, progExists⟩, sp⟩, pc⟩

theorem wellFormed_iff (dev : Device) : dev.WellFormed = true ↔
    dev.pcBits ≤ 22 ∧ dev.flashend < 2 ^ dev.pcBits ∧ dev.spBits ≤ 16 ∧ dev.reachesRamend = true := by
  simp only [Device.WellFormed, Bool.and_eq_true, decide_eq_true_eq, and_assoc]

theorem reachesRamend_iff (dev : Device) : dev.reachesRamend = true ↔
    dev.ramend < 2 ^ dev.spBits ∨ dev.hasRamp = true ∧ dev.spBits = 16 ∧ dev.ramend < 0x1000000 := by
  simp only [Device.reachesRamend, Bool.or_eq_true, Bool.and_eq_true, decide_eq_true_eq, beq_iff_eq, and_assoc]

-- What an operation in the middle of an instruction does

/-- `u` is sound, has the parameters of `s`, and its pc: an instruction begun at `s` may stand at `u` before it ends. -/
structure KeepsSound (s u : State) : Prop where
  sound : u.Sound
  dev : u.dev = s.dev
  pc : u.pc = s.pc

theorem State.Sound.keeps {s : State} (h : s.Sound) : KeepsSound s s := ⟨h, rfl, rfl⟩

namespace KeepsSound

variable {s u v : State}

/-- An update that leaves the parameters, pc, SP and both memories keeps soundness, whatever it writes. -/
theorem of_same (h : KeepsSound s u) (hdev : v.dev = u.dev) (hpc : v.pc = u.pc) (hmem : v.mem = u.mem)
    (hprog : v.prog = u.prog) (hsp : v.sp = u.sp) : KeepsSound s v := by
  obtain ⟨⟨dev, memWf, memSram, progWf, progExists, sp⟩, hd, hp⟩ := h
  rw [← hdev] at dev memSram progExists sp hd
  rw [← hmem] at memWf memSram
  rw [← hprog] at progWf progExists
  rw [← hsp] at sp
  exact ⟨⟨dev, memWf, memSram, progWf, progExists, sp⟩, hd, hpc.trans hp⟩

theorem setReg (h : KeepsSound s u) (i : Reg) (b : Byte) : KeepsSound s (u.setReg i b) :=
  h.of_same rfl rfl rfl rfl rfl

theorem setPair (h : KeepsSound s u) (hi lo : Reg) (w : Word) : KeepsSound s (u.setPair hi lo w) :=
  (h.setReg _ _).setReg _ _

theorem setPtrZ (h : KeepsSound s u) (w : Word) : KeepsSound s (u.setPtrZ w) := h.setPair _ _ w

theorem setWideX (h : KeepsSound s u) (a : Nat) : KeepsSound s (u.setWideX a) := h.of_same rfl rfl rfl rfl rfl

theorem setWideZ (h : KeepsSound s u) (a : Nat) : KeepsSound s (u.setWideZ a) := h.of_same rfl rfl rfl rfl rfl

theorem setLowBlock (h : KeepsSound s u) (b : BitVec 128) : KeepsSound s (u.setLowBlock b) :=
  h.of_same (setLowBlock_dev u b) (setLowBlock_pc u b) (setLowBlock_mem u b) (setLowBlock_prog u b)
    (setLowBlock_sp u b)

theorem setSreg (h : KeepsSound s u) (sr : Sreg) : KeepsSound s (u.setSreg sr) := h.of_same rfl rfl rfl rfl rfl

theorem mulWrite (h : KeepsSound s u) (P : Word) (frac : Bool) : KeepsSound s (mulWrite P frac u) :=
  (h.setSreg _).setPair _ _ _

theorem logRead (h : KeepsSound s u) (loc : Nat) (p : IoPort) : KeepsSound s (u.logRead loc p) :=
  h.of_same rfl rfl rfl rfl rfl

/-- SP may take any value of `SP_BITS` bits. -/
theorem withSp (h : KeepsSound s u) {x : Word} (hx : x.toNat < 2 ^ s.dev.spBits) :
    KeepsSound s { u with sp := x } :=
  ⟨{ h.sound with sp := by simpa only [h.dev] using hx }, h.dev, h.pc⟩

theorem setSp (h : KeepsSound s u) (w : Word) : KeepsSound s (u.setSp w) := by
  refine h.withSp ?_
  rw [h.dev, BitVec.toNat_ofNat]
  exact (Nat.mod_le _ _).trans_lt (Nat.mod_lt _ (Nat.two_pow_pos _))

theorem writePort (h : KeepsSound s u) (loc : Nat) (b : Byte) (p : IoPort) : KeepsSound s (u.writePort loc b p) := by
  cases p with
  | spl | sph => exact h.setSp _
  | sreg | rampd | rampx | rampy | rampz | eind | device => exact h.of_same rfl rfl rfl rfl rfl

/-- SRAM may be written where the data map has it (R54). -/
theorem sramWrite (h : KeepsSound s u) {a : Nat} (ha : Device.classify u.dev a = .sram) (b : Byte) :
    KeepsSound s (u.sramWrite a b) :=
  ⟨{ h.sound with
      memWf := sramWrite_wf h.sound.memWf a b
      memSram := memory_all_write (p := fun c => Device.classify u.dev c == .sram) h.sound.memSram (by simp [ha]) },
    h.dev, h.pc⟩

/-- A program word that is written exists (R52). -/
theorem progWrite (h : KeepsSound s u) {w : Nat} {x : Word} (hw : u.progWrite w x = .next v) : KeepsSound s v := by
  obtain ⟨hle, rfl⟩ := progWrite_eq_next hw
  exact ⟨{ h.sound with
      progWf := memory_wf_write _ _ _ h.sound.progWf
      progExists := memory_all_write (p := fun c => c ≤ u.dev.flashend) h.sound.progExists (by simp [hle]) },
    h.dev, h.pc⟩

theorem ioRead (h : KeepsSound s u) {loc : Nat} {b : Byte} (hr : u.ioRead loc = .next (b, v)) : KeepsSound s v := by
  obtain ⟨p, -, -, -, rfl⟩ := ioRead_eq_next hr
  exact h.logRead loc p

theorem ioWrite (h : KeepsSound s u) {loc : Nat} {b : Byte} (hw : u.ioWrite loc b = .next v) : KeepsSound s v := by
  obtain ⟨p, -, -, rfl⟩ := ioWrite_eq_next hw
  exact h.writePort loc b p

theorem memRead (h : KeepsSound s u) {a : Nat} {b : Byte} (hr : u.memRead a = .next (b, v)) : KeepsSound s v := by
  rcases memRead_eq_next hr with ⟨rfl, -⟩ | ⟨rfl, -⟩ | ⟨rfl, -⟩ | ⟨_, -, hio⟩
  · exact h
  · exact h
  · exact h
  · exact h.ioRead hio

theorem memWrite (h : KeepsSound s u) {a : Nat} {b : Byte} (hw : u.memWrite a b = .next v) : KeepsSound s v := by
  rcases memWrite_eq_next hw with ⟨j, -, rfl⟩ | ⟨ha, rfl⟩ | ⟨_, -, hio⟩
  · exact h.setReg j b
  · exact h.sramWrite ha b
  · exact h.ioWrite hio

end KeepsSound

-- How an instruction ends

/-- `t` is sound, has the parameters of `s`, and its pc is within one jump of that of `s` or where IJMP can reach
(R160, R161, R175). -/
structure EndsSound (s t : State) : Prop where
  sound : t.Sound
  dev : t.dev = s.dev
  pc : t.pc ≤ max (s.pc + 2048) 0xFFFF

section
variable {s t u : State}

/-- pc alone is set: the end of every instruction. -/
theorem KeepsSound.endsAt (h : KeepsSound s u) {p : Nat} (hp : p ≤ max (s.pc + 2048) 0xFFFF) :
    EndsSound s { u with pc := p } :=
  ⟨{ h.sound with }, h.dev, hp⟩

theorem KeepsSound.advance (h : KeepsSound s u) : EndsSound s u.advance :=
  h.endsAt (by rw [h.pc]; omega)

/-- An instruction that answers on every path, with the advanced `u`. -/
theorem KeepsSound.ends (h : KeepsSound s u) (ht : (.next u.advance : Res State) = .next t) : EndsSound s t := by
  cases ht
  exact h.advance

theorem writeResult_ends (hs : s.Sound) {d : Reg} {R : Byte} {sr : Sreg} (h : writeResult d R sr s = .next t) :
    EndsSound s t :=
  ((hs.keeps.setReg d R).setSreg sr).ends h

/-- RJMP's 12-bit offset goes furthest, by 2048 words. -/
theorem jumpRel_ends (hs : s.Sound) {k : Int} (hk : k < 2048) (h : jumpRel k s = .next t) : EndsSound s t := by
  obtain ⟨-, rfl⟩ := jumpRel_eq_next h
  exact hs.keeps.endsAt (by unfold relTarget; omega)

theorem branchIf_ends (hs : s.Sound) {taken : Bool} {k : BitVec 7} (h : branchIf taken k s = .next t) :
    EndsSound s t := by
  cases taken with
  | true =>
    have hk : k.toInt < 2 ^ 6 := BitVec.toInt_lt
    exact jumpRel_ends hs (by omega) h
  | false => exact hs.keeps.ends h

theorem mul_ends (hs : s.Sound) {P : Word} {frac : Bool}
    (h : requires (Device.offersMul s.dev) (.next (mulWrite P frac s).advance) = .next t) : EndsSound s t :=
  (hs.keeps.mulWrite P frac).ends (requires_eq_next h).2

theorem loadByte_ends (hs : s.Sound) {d : Reg} {a : Nat} {upd : State → State}
    (hupd : ∀ u, KeepsSound s u → KeepsSound s (upd u)) (h : loadByte d a upd s = .next t) : EndsSound s t := by
  obtain ⟨v, s1, hr, rfl⟩ := loadByte_eq_next h
  exact (hupd _ ((hs.keeps.memRead hr).setReg d v)).advance

theorem storeByte_ends (hs : s.Sound) {r : Reg} {a : Nat} {upd : State → State}
    (hupd : ∀ u, KeepsSound s u → KeepsSound s (upd u)) (h : storeByte r a upd s = .next t) : EndsSound s t := by
  obtain ⟨s1, hw, rfl⟩ := storeByte_eq_next h
  exact (hupd _ (hs.keeps.memWrite hw)).advance

theorem loadProgByte_ends (hs : s.Sound) {d : Reg} {a : Nat} {upd : State → State}
    (hupd : ∀ u, KeepsSound s u → KeepsSound s (upd u)) (h : loadProgByte d a upd s = .next t) : EndsSound s t := by
  obtain ⟨v, -, rfl⟩ := loadProgByte_eq_next h
  exact (hupd _ (hs.keeps.setReg d v)).advance

theorem storeProgWord_ends (hs : s.Sound) {upd : State → State}
    (hupd : ∀ u, KeepsSound s u → KeepsSound s (upd u)) (h : storeProgWord upd s = .next t) : EndsSound s t := by
  obtain ⟨s1, hw, rfl⟩ := storeProgWord_eq_next h
  exact (hupd _ (hs.keeps.progWrite hw)).advance

theorem readModifyWrite_ends (hs : s.Sound) {f : Byte → Byte → Byte} {d : Reg}
    (h : readModifyWrite f d s = .next t) : EndsSound s t := by
  obtain ⟨ha, m, -, rfl⟩ := readModifyWrite_eq_next h
  exact ((hs.keeps.sramWrite ha _).setReg d m).advance

theorem execIn_ends (hs : s.Sound) {d : Reg} {A : BitVec 6} (h : execIn d A s = .next t) : EndsSound s t := by
  obtain ⟨⟨v, s1⟩, hr, h⟩ := andThen_eq_next h
  exact ((hs.keeps.ioRead hr).setReg d v).ends h

theorem execOut_ends (hs : s.Sound) {A : BitVec 6} {r : Reg} (h : execOut A r s = .next t) : EndsSound s t := by
  obtain ⟨s1, hw, h⟩ := andThen_eq_next h
  exact (hs.keeps.ioWrite hw).ends h

/-- A PUSH that answers had SP above 0, so that SP - 1 does not wrap (R205). -/
theorem execPush_ends (hs : s.Sound) {r : Reg} (h : execPush r s = .next t) : EndsSound s t := by
  unfold execPush at h
  split at h
  · cases h
  · next hsp =>
    have hlt : (s.sp - 1).toNat < 2 ^ s.dev.spBits := by
      have hsub : (s.sp - 1).toNat < s.sp.toNat := by bv_omega
      exact hsub.trans hs.sp
    exact storeByte_ends hs (fun _ hu => hu.withSp hlt) h

/-- Data space ends at RAMEND (R54). -/
theorem memRead_le_ramend {a : Nat} {x : Byte × State} (h : s.memRead a = .next x) : a ≤ s.dev.ramend := by
  by_contra ha
  have hc : Device.classify s.dev a = .unmapped := if_pos (by omega)
  simp [State.memRead, hc] at h

/-- An address up to RAMEND fits SP, but for a device beyond 64 KB, where SP has all 16 bits (log entry 7). -/
theorem ofNat_lt_spBits (hdev : s.dev.WellFormed = true) {a : Nat} (ha : a ≤ s.dev.ramend) :
    (BitVec.ofNat 16 a).toNat < 2 ^ s.dev.spBits := by
  obtain ⟨-, -, -, hreach⟩ := (wellFormed_iff s.dev).1 hdev
  rcases (reachesRamend_iff s.dev).1 hreach with hram | ⟨-, h16, -⟩
  · rw [BitVec.toNat_ofNat]
    exact ((Nat.mod_le a _).trans ha).trans_lt hram
  · rw [h16]
    exact (BitVec.ofNat 16 a).isLt

theorem execPop_eq_loadByte (d : Reg) (s : State) : execPop d s =
    loadByte d (s.sp.toNat + 1) (fun u => { u with sp := BitVec.ofNat 16 (s.sp.toNat + 1) }) s := rfl

theorem execPop_ends (hs : s.Sound) {d : Reg} (h : execPop d s = .next t) : EndsSound s t := by
  rw [execPop_eq_loadByte] at h
  obtain ⟨v, s1, hr, -⟩ := loadByte_eq_next h
  have hlt := ofNat_lt_spBits hs.dev (memRead_le_ramend hr)
  exact loadByte_ends hs (fun _ hu => hu.withSp hlt) h

theorem execDes_ends (hs : s.Sound) {K : BitVec 4} (h : execDes K s = .next t) : EndsSound s t :=
  (hs.keeps.setLowBlock _).ends (requires_eq_next h).2

theorem execRjmp_ends (hs : s.Sound) {k : BitVec 12} (h : execRjmp k s = .next t) : EndsSound s t :=
  jumpRel_ends hs (BitVec.toInt_lt (x := k)) h

theorem execIjmp_ends (hs : s.Sound) (h : execIjmp s = .next t) : EndsSound s t := by
  cases h
  exact hs.keeps.endsAt (by omega)

/-- Every instruction that answers ends in a sound state, pc within one jump. -/
theorem exec_ends {i : Instr} (hs : s.Sound) (h : exec i s = .next t) : EndsSound s t := by
  have hk := hs.keeps
  cases i with
  | and | inc | neg | andi | or | ori | eor | com | dec | sbr | cbr | asr | lsr | lsl | add | adc | sub | sbc =>
    exact writeResult_ends hs h
  | tst | cpi | bset | bclr | seh | clh | sec | sez | sen | sev | ses | setT | sei | clc =>
    exact (hk.setSreg _).ends h
  | clr => exact ((hk.setReg _ _).setSreg _).ends h
  | ser | ldi | mov => exact (hk.setReg _ _).ends h
  | movw => exact (hk.setPair _ _ _).ends (requires_eq_next h).2
  | nop | wdr => exact hk.ends h
  | brk | sleep => cases h
  | des => exact execDes_ends hs h
  | fmulsu | mul | muls | mulsu | fmul | fmuls => exact mul_ends hs h
  | rjmp => exact execRjmp_ends hs h
  | ijmp => exact execIjmp_ends hs h
  | brbs | brbc | breq | brne | brcs | brlo | brcc | brsh | brmi | brpl | brlt | brge => exact branchIf_ends hs h
  | ldX => exact loadByte_ends hs (fun _ hu => hu) h
  | ldXInc | ldDecX => exact loadByte_ends hs (fun _ hu => hu.setWideX _) (unlessConflict_eq_next h).2
  | stZ => exact storeByte_ends hs (fun _ hu => hu) h
  | stdZ => exact storeByte_ends hs (fun _ hu => hu) (requires_eq_next h).2
  | stZInc | stDecZ => exact storeByte_ends hs (fun _ hu => hu.setWideZ _) (unlessConflict_eq_next h).2
  | elpm | elpmZ => exact loadProgByte_ends hs (fun _ hu => hu) (requires_eq_next h).2
  | elpmZInc =>
    exact loadProgByte_ends hs (fun _ hu => hu.setWideZ _) (unlessConflict_eq_next (requires_eq_next h).2).2
  | lpmZInc =>
    exact loadProgByte_ends hs (fun _ hu => hu.setPtrZ _) (unlessConflict_eq_next (requires_eq_next h).2).2
  | spm => exact storeProgWord_ends hs (fun _ hu => hu) (requires_eq_next h).2
  | spmZInc => exact storeProgWord_ends hs (fun _ hu => hu.setPtrZ _) (requires_eq_next h).2
  | ioIn => exact execIn_ends hs h
  | ioOut => exact execOut_ends hs h
  | push => exact execPush_ends hs h
  | pop => exact execPop_ends hs h
  | xch | las | lac | lat => exact readModifyWrite_ends hs (requires_eq_next h).2

end

-- The step

/-- A fetch that answers is not at END_PC, and reads a placed word up to FLASHEND (R176). -/
theorem fetch_eq_next {s : State} {w : Word} (h : fetch s = .next w) :
    s.dev.endPc ≠ some s.pc ∧ s.pc ≤ s.dev.flashend ∧ Memory.read s.prog s.pc = some w := by
  unfold fetch at h
  split at h
  · cases h
  · next hend => exact ⟨hend, progWord_eq_next h⟩

/-- Settles O11: the fetch bounds pc by FLASHEND, from where one instruction goes no further than the invariant allows,
and every other part of the invariant is kept by each operation an instruction is made of. -/
theorem stepKeepsInvariant : Obligations.StepKeepsInvariant := by
  intro s t hinv hstep
  obtain ⟨w, i, hfetch, -, hexec⟩ := step_eq_next hstep
  obtain ⟨-, hpc, -⟩ := fetch_eq_next hfetch
  obtain ⟨hsound, hdev, hend⟩ := exec_ends ((inv_iff_sound s).1 hinv).1 hexec
  refine (inv_iff_sound t).2 ⟨hsound, ?_⟩
  rw [hdev]
  omega

-- Instructions a device does not have (R7)

/-- A gated instruction is refused on a device without it. -/
theorem requires_of_false {has : Bool} (h : has = false) (r : Res State) :
    requires has r = .refused .unavailableInstruction := by
  rw [h, requires_false]

/-- The shape of every gate but DES's: what the device lacks, or `AVRrc`, closes it. -/
theorem gate_eq_false {has : Bool} {core : Core} (h : has = false ∨ core = .avrrc) :
    (has && core != .avrrc) = false := by
  rcases h with rfl | rfl
  · exact Bool.false_and _
  · exact Bool.and_false _

section
variable {s : State}

theorem multiply_refused (h : Device.offersMul s.dev = false) (d r : Reg) :
    ∀ i ∈ [Instr.mul d r, .muls d r, .mulsu d r, .fmul d r, .fmuls d r, .fmulsu d r],
      exec i s = .refused .unavailableInstruction := by
  simp only [List.forall_mem_cons, List.not_mem_nil, false_implies, implies_true, and_true]
  exact ⟨requires_of_false h _, requires_of_false h _, requires_of_false h _, requires_of_false h _,
    requires_of_false h _, requires_of_false h _⟩

theorem elpm_refused (h : Device.offersElpm s.dev = false) (d : Reg) :
    ∀ i ∈ [Instr.elpm, .elpmZ d, .elpmZInc d], exec i s = .refused .unavailableInstruction := by
  simp only [List.forall_mem_cons, List.not_mem_nil, false_implies, implies_true, and_true]
  exact ⟨requires_of_false h _, requires_of_false h _, requires_of_false h _⟩

theorem spm_refused (h : Device.offersSpm s.dev = false) :
    ∀ i ∈ [Instr.spm, .spmZInc], exec i s = .refused .unavailableInstruction := by
  simp only [List.forall_mem_cons, List.not_mem_nil, false_implies, implies_true, and_true]
  exact ⟨requires_of_false h _, requires_of_false h _⟩

theorem stdZ_refused (hcore : s.dev.core = .avrrc) {q : BitVec 6} (hq : q ≠ 0) (r : Reg) :
    exec (.stdZ q r) s = .refused .unavailableInstruction := by
  have hoffers : Device.offersStd s.dev q = false := by simpa [Device.offersStd, hcore] using hq
  exact requires_of_false hoffers _

end

theorem admitted_iff (dev : Device) : dev.admitted = true ↔
    dev.hasRamp = false ∧ dev.hasEind = false ∧ dev.hasSpm = false ∧ dev.hasDes = false := by
  simp only [Device.admitted, Bool.and_eq_true, Bool.not_eq_true', and_assoc]

theorem refused_of_admitted {s : State} (h : s.dev.admitted = true) (d : Reg) (K : BitVec 4) :
    ∀ i ∈ [Instr.spm, .spmZInc, .elpm, .elpmZ d, .elpmZInc d, .des K, .brk, .sleep],
      exec i s = .refused .unavailableInstruction := by
  obtain ⟨hramp, -, hspm, hdes⟩ := (admitted_iff s.dev).1 h
  have hoffers : Device.offersDes s.dev = false := by simp [Device.offersDes, hdes]
  have hlast : ∀ i ∈ [Instr.des K, .brk, .sleep], exec i s = .refused .unavailableInstruction := by
    simp only [List.forall_mem_cons, List.not_mem_nil, false_implies, implies_true, and_true]
    exact ⟨requires_of_false hoffers _, rfl, rfl⟩
  have hpm := List.forall_mem_append.2
    ⟨spm_refused (gate_eq_false (.inl hspm)), elpm_refused (gate_eq_false (.inl hramp)) d⟩
  exact List.forall_mem_append.2 ⟨hpm, hlast⟩

/-- Settles O55, one clause of the statement per gate. -/
theorem unavailableRefused : Obligations.UnavailableRefused := by
  intro s d r q
  refine ⟨?_, ?_, ?_, ?_, ?_, ?_⟩
  · exact fun h => multiply_refused (gate_eq_false h) d r
  · intro hcore
    have hlpm : Device.offersLpm s.dev = false := by simp [Device.offersLpm, hcore]
    exact ⟨requires_of_false hlpm _, fun hq => stdZ_refused hcore hq r⟩
  · exact fun h => elpm_refused (gate_eq_false h) d
  · exact fun h => spm_refused (gate_eq_false h)
  · exact fun h => requires_of_false (gate_eq_false h) _
  · exact fun h K => refused_of_admitted h d K

end Sys2Proof.Machine
end

section
/-! SUPPORT. The whole-machine rules of 10_state.md (FlagsFrame, SignFlagRule, RegisterFrame, SpecialFrame,
FlagIndependence) and StoreToRegister. What an instruction may change is said once, as `Frame`: each operation over the
state stays within it, and one case split over the instructions names the operations each is made of. -/

namespace Sys2Proof.Machine

-- Updates of SREG (R26, R28, R29)

/-- `F` writes the flags `fs` and no other, each with a value that does not depend on SREG. -/
structure FlagUpdate (fs : List Flag) (F : Sreg → Sreg) : Prop where
  keeps : ∀ (sr : Sreg) (f : Flag), f ∉ fs → (F sr).get f = sr.get f
  fixed : ∀ (sr sr' : Sreg) (f : Flag), f ∈ fs → (F sr).get f = (F sr').get f

theorem set_update (f : Flag) (b : Bool) : FlagUpdate [f] (fun sr => sr.set f b) where
  keeps sr g hg := sreg_get_set_other (fun e => hg (List.mem_singleton.2 e.symm)) sr b
  fixed sr sr' g hg := by
    obtain rfl := List.mem_singleton.1 hg
    rw [sreg_get_set_self, sreg_get_set_self]

/-- One update after another writes the flags of both. -/
theorem FlagUpdate.comp {fs gs : List Flag} {F G : Sreg → Sreg} (hG : FlagUpdate gs G) (hF : FlagUpdate fs F) :
    FlagUpdate (fs ++ gs) (fun sr => G (F sr)) where
  keeps sr f hf := by
    rw [List.mem_append, not_or] at hf
    rw [hG.keeps _ f hf.2, hF.keeps _ f hf.1]
  fixed sr sr' f hf := by
    by_cases hg : f ∈ gs
    · exact hG.fixed _ _ f hg
    · rw [hG.keeps _ f hg, hG.keeps _ f hg]
      exact hF.fixed sr sr' f ((List.mem_append.1 hf).resolve_right hg)

theorem withNVZ_update (n v z : Bool) : FlagUpdate [.n, .v, .z, .s] (fun sr => sr.withNVZ n v z) :=
  (set_update .s (n ^^ v)).comp ((set_update .z z).comp ((set_update .v v).comp (set_update .n n)))

theorem logicFlags_update (R : Byte) : FlagUpdate [.n, .v, .z, .s] (logicFlags R) := withNVZ_update _ _ _

theorem incFlags_update (R : Byte) : FlagUpdate [.n, .v, .z, .s] (incFlags R) := withNVZ_update _ _ _

theorem decFlags_update (R : Byte) : FlagUpdate [.n, .v, .z, .s] (decFlags R) := withNVZ_update _ _ _

theorem comFlags_update (R : Byte) : FlagUpdate [.n, .v, .z, .s, .c] (comFlags R) :=
  (set_update .c true).comp (logicFlags_update R)

theorem shiftFlags_update (out : Bool) (R : Byte) : FlagUpdate [.n, .v, .z, .s, .c] (shiftFlags out R) :=
  (set_update .c out).comp (withNVZ_update _ _ _)

theorem lslFlags_update (a R : Byte) : FlagUpdate [.n, .v, .z, .s, .c, .h] (lslFlags a R) :=
  (set_update .h _).comp (shiftFlags_update _ R)

/-- NEG, and the additions and subtractions, write C and H after the other four. -/
theorem withNVZCH_update (n v z c h : Bool) :
    FlagUpdate [.n, .v, .z, .s, .c, .h] (fun sr => { sr.withNVZ n v z with h := h, c := c }) :=
  (set_update .h h).comp ((set_update .c c).comp (withNVZ_update n v z))

theorem negFlags_update (a R : Byte) : FlagUpdate [.n, .v, .z, .s, .c, .h] (negFlags a R) :=
  withNVZCH_update _ _ _ _ _

theorem addFlags_update (a b R : Byte) : FlagUpdate [.n, .v, .z, .s, .c, .h] (addFlags a b R) :=
  withNVZCH_update _ _ _ _ _

theorem subFlags_update (a b R : Byte) : FlagUpdate [.n, .v, .z, .s, .c, .h] (subFlags a b R) :=
  withNVZCH_update _ _ _ _ _

/-- SBC's flags, the old Z they depend on (R253) held apart. -/
theorem sbcFlags_update (a b R : Byte) (z : Bool) :
    FlagUpdate [.n, .v, .z, .s, .c, .h] (fun sr => { subFlags a b R sr with z := R == 0 && z }) :=
  withNVZCH_update _ _ _ _ _

theorem mulFlags_update (P : Word) (frac : Bool) : FlagUpdate [.z, .c] (mulFlags P frac) :=
  (set_update .c _).comp (set_update .z _)

-- Which I/O location an instruction reads or writes (R35, R57)

section
variable {i : Instr} {s : State} {a loc : Nat} {p : IoPort}

theorem ioLocOf_io {dev : Device} (hc : Device.classify dev a = .io loc) : ioLocOf dev a = some loc := by
  simp only [ioLocOf, hc]

theorem storedReg_eq {j : Reg} (hst : storesAt i s = some a) (hc : Device.classify s.dev a = .reg j) :
    storedReg i s = [j] := by
  simp only [storedReg, hst, hc]

theorem ioReadLoc_of_loadsFrom (hl : loadsFrom i s = some a) : ioReadLoc i s = ioLocOf s.dev a := by
  cases i with
  | ioIn => cases hl
  | _ => exact congrArg (·.bind (ioLocOf s.dev)) hl

theorem ioWriteLoc_of_storesAt (hst : storesAt i s = some a) : ioWriteLoc i s = ioLocOf s.dev a := by
  cases i with
  | ioOut => cases hst
  | _ => exact congrArg (·.bind (ioLocOf s.dev)) hst

theorem readsPort_of_loc (hloc : ioReadLoc i s = some loc) (hp : Device.ioPort s.dev loc = some p) :
    readsPort i s p := by
  simp only [readsPort, hloc, Option.bind_some, hp]

theorem writesPort_of_loc (hloc : ioWriteLoc i s = some loc) (hp : Device.ioPort s.dev loc = some p) :
    writesPort i s p := by
  simp only [writesPort, hloc, Option.bind_some, hp]

end

-- What an instruction may change

/-- An instruction `i` begun at `s` may stand at `u`: every part of the state is as in `s`, but for what the rules let
`i` change (R21, R28, R30 to R32, R66, R182). pc and SRAM are not spoken of. -/
structure Frame (i : Instr) (s u : State) : Prop where
  regs : SameRegsBut (regsNamed i ++ storedReg i s) s u
  flags : ¬ writesPort i s .sreg → SameFlagsBut (flagsWritten i) s u
  sp : (∀ r, i ≠ .push r ∧ i ≠ .pop r) → ¬ writesPort i s .spl → ¬ writesPort i s .sph → u.sp = s.sp
  rampz : s.dev.hasRamp = false ∨ (∀ r, i ≠ .stZInc r ∧ i ≠ .stDecZ r ∧ i ≠ .elpmZInc r) →
    ¬ writesPort i s .rampz → u.rampz = s.rampz
  rampx : s.dev.hasRamp = false ∨ (∀ d, i ≠ .ldXInc d ∧ i ≠ .ldDecX d) → ¬ writesPort i s .rampx → u.rampx = s.rampx
  rampy : ¬ writesPort i s .rampy → u.rampy = s.rampy
  rampd : ¬ writesPort i s .rampd → u.rampd = s.rampd
  eind : ¬ writesPort i s .eind → u.eind = s.eind
  prog : i ≠ .spm → i ≠ .spmZInc → ∀ w, Memory.read u.prog w = Memory.read s.prog w
  ioLog : ¬ writesPort i s .device → ¬ readsPort i s .device → u.ioLog = s.ioLog
  dev : u.dev = s.dev

theorem rampOf_of_not_hasRamp {dev : Device} (h : dev.hasRamp = false) (a : Nat) (ramp : Byte) :
    Device.rampOf dev a ramp = ramp := by
  simp only [Device.rampOf, h, Bool.false_eq_true, if_false]

namespace Frame

variable {i : Instr} {s u v : State}

theorem refl (i : Instr) (s : State) : Frame i s s where
  regs _ _ := rfl
  flags _ _ _ := rfl
  sp _ _ _ := rfl
  rampz _ _ := rfl
  rampx _ _ := rfl
  rampy _ := rfl
  rampd _ := rfl
  eind _ := rfl
  prog _ _ _ := rfl
  ioLog _ _ := rfl
  dev := rfl

-- Registers

/-- The register file is replaced by one that differs from that of `s` as the frame allows. -/
theorem withRegs (h : Frame i s u) {rs : Vector Byte 32}
    (hrs : SameRegsBut (regsNamed i ++ storedReg i s) s { u with regs := rs }) : Frame i s { u with regs := rs } :=
  { h with regs := hrs }

theorem setReg (h : Frame i s u) {d : Reg} (hd : d ∈ regsNamed i) (b : Byte) : Frame i s (u.setReg d b) := by
  refine h.withRegs fun j hj => ?_
  have hne : d ≠ j := fun e : d = j => hj (List.mem_append_left _ (e ▸ hd))
  exact (reg_setReg_other hne u b).trans (h.regs j hj)

theorem setPair (h : Frame i s u) {hi lo : Reg} (hhi : hi ∈ regsNamed i) (hlo : lo ∈ regsNamed i) (w : Word) :
    Frame i s (u.setPair hi lo w) :=
  (h.setReg hhi _).setReg hlo _

theorem setPtrZ (h : Frame i s u) (hz : [31, 30] ⊆ regsNamed i) (w : Word) : Frame i s (u.setPtrZ w) :=
  h.setPair (hz (by decide)) (hz (by decide)) w

/-- X moves together with RAMPX, where the device has it, in LD Rd,X+ and LD Rd,-X (R31; log entry 14). -/
theorem setWideX (h : Frame i s u) (hx : [27, 26] ⊆ regsNamed i) (hi : ¬ ∀ d, i ≠ .ldXInc d ∧ i ≠ .ldDecX d) (a : Nat) :
    Frame i s (u.setWideX a) :=
  { h.setPair (hx (by decide)) (hx (by decide)) (BitVec.ofNat 16 a) with
    rampx := fun hor hw => by
      have hramp : u.dev.hasRamp = false := h.dev ▸ hor.resolve_right hi
      rw [setWideX_rampx, rampOf_of_not_hasRamp hramp, h.rampx hor hw] }

/-- Z moves together with RAMPZ, where the device has it, in ST Z+, ST -Z and ELPM Rd,Z+ (R31; log entry 14). -/
theorem setWideZ (h : Frame i s u) (hz : [31, 30] ⊆ regsNamed i)
    (hi : ¬ ∀ r, i ≠ .stZInc r ∧ i ≠ .stDecZ r ∧ i ≠ .elpmZInc r) (a : Nat) : Frame i s (u.setWideZ a) :=
  { h.setPtrZ hz (BitVec.ofNat 16 a) with
    rampz := fun hor hw => by
      have hramp : u.dev.hasRamp = false := h.dev ▸ hor.resolve_right hi
      rw [setWideZ_rampz, rampOf_of_not_hasRamp hramp, h.rampz hor hw] }

theorem setLowBlock (h : Frame i s u) (hlow : ∀ j : Reg, j.val < 16 → j ∈ regsNamed i) (b : BitVec 128) :
    Frame i s (u.setLowBlock b) := by
  refine h.withRegs fun j hj => ?_
  have hhigh : ¬ j.val < 16 := fun hlt => hj (List.mem_append_left _ (hlow j hlt))
  exact (reg_setLowBlock u b j).trans ((if_neg hhigh).trans (h.regs j hj))

-- Flags, SP and program memory

/-- SREG is replaced by an update of its value at `s`. -/
theorem setSreg (h : Frame i s u) {F : Sreg → Sreg} (hF : FlagUpdate (flagsWritten i) F) :
    Frame i s (u.setSreg (F s.sreg)) :=
  { h with flags := fun _ f hf => hF.keeps s.sreg f hf }

theorem withSp (h : Frame i s u) (hi : ¬ ∀ r, i ≠ .push r ∧ i ≠ .pop r) (x : Word) : Frame i s { u with sp := x } :=
  { h with sp := fun hn => absurd hn hi }

theorem progWrite (h : Frame i s u) (hi : i = .spm ∨ i = .spmZInc) {w : Nat} {x : Word}
    (hw : u.progWrite w x = .next v) : Frame i s v := by
  obtain ⟨-, rfl⟩ := progWrite_eq_next hw
  exact { h with prog := fun hspm hspmZInc => absurd hi (not_or.2 ⟨hspm, hspmZInc⟩) }

-- I/O locations and data space

theorem ioRead {loc : Nat} {b : Byte} (hloc : ioReadLoc i s = some loc) (hr : s.ioRead loc = .next (b, v)) :
    Frame i s v := by
  obtain ⟨p, hp, -, -, rfl⟩ := ioRead_eq_next hr
  have hport : readsPort i s p := readsPort_of_loc hloc hp
  exact { refl i s with
    ioLog := fun _ hdev => (logRead_ioLog s loc p).trans (if_neg fun e : p = .device => hdev (e ▸ hport)) }

theorem ioWrite {loc : Nat} {b : Byte} (hloc : ioWriteLoc i s = some loc) (hw : s.ioWrite loc b = .next v) :
    Frame i s v := by
  obtain ⟨p, hp, -, rfl⟩ := ioWrite_eq_next hw
  have hne : ∀ {q : IoPort}, ¬ writesPort i s q → p ≠ q := fun hq e => hq (e ▸ writesPort_of_loc hloc hp)
  exact {
    regs := fun j _ => reg_writePort s loc b p j
    flags := fun hn f _ => by rw [writePort_sreg, if_neg (hne hn)]
    sp := fun _ hl hh => writePort_sp (hne hl) (hne hh) s loc b
    rampz := fun _ hn => (writePort_rampz s loc b p).trans (if_neg (hne hn))
    rampx := fun _ hn => (writePort_rampx s loc b p).trans (if_neg (hne hn))
    rampy := fun hn => (writePort_rampy s loc b p).trans (if_neg (hne hn))
    rampd := fun hn => (writePort_rampd s loc b p).trans (if_neg (hne hn))
    eind := fun hn => (writePort_eind s loc b p).trans (if_neg (hne hn))
    prog := fun _ _ w => by rw [writePort_prog]
    ioLog := fun hn _ => (writePort_ioLog s loc b p).trans (if_neg (hne hn))
    dev := writePort_dev s loc b p }

theorem memRead {a : Nat} {b : Byte} (hl : loadsFrom i s = some a) (hr : s.memRead a = .next (b, v)) : Frame i s v := by
  rcases memRead_eq_next hr with ⟨rfl, -⟩ | ⟨rfl, -⟩ | ⟨rfl, -⟩ | ⟨loc, hc, hio⟩
  · exact refl i v
  · exact refl i v
  · exact refl i v
  · exact ioRead ((ioReadLoc_of_loadsFrom hl).trans (ioLocOf_io hc)) hio

theorem memWrite {a : Nat} {b : Byte} (hst : storesAt i s = some a) (hw : s.memWrite a b = .next v) : Frame i s v := by
  rcases memWrite_eq_next hw with ⟨j, hc, rfl⟩ | ⟨-, rfl⟩ | ⟨loc, hc, hio⟩
  · have hstored : j ∈ storedReg i s := by rw [storedReg_eq hst hc]; exact .head _
    refine (refl i s).withRegs fun k hk => ?_
    exact reg_setReg_other (fun e : j = k => hk (List.mem_append_right _ (e ▸ hstored))) s b
  · exact { refl i s with }
  · exact ioWrite ((ioWriteLoc_of_storesAt hst).trans (ioLocOf_io hc)) hio

-- How an instruction ends

/-- pc is set: the end of every instruction. -/
theorem withPc (h : Frame i s u) (p : Nat) : Frame i s { u with pc := p } := { h with }

theorem ends (h : Frame i s u) (ht : (.next u.advance : Res State) = .next v) : Frame i s v := by
  cases ht
  exact h.withPc _

end Frame

section
variable {i : Instr} {s t : State}

theorem writeResult_frame {d : Reg} {R : Byte} {F : Sreg → Sreg} (hd : d ∈ regsNamed i)
    (hF : FlagUpdate (flagsWritten i) F) (h : writeResult d R (F s.sreg) s = .next t) : Frame i s t :=
  (((Frame.refl i s).setReg hd R).setSreg hF).ends h

theorem setSreg_frame {F : Sreg → Sreg} (hF : FlagUpdate (flagsWritten i) F)
    (h : (.next (s.setSreg (F s.sreg)).advance : Res State) = .next t) : Frame i s t :=
  ((Frame.refl i s).setSreg hF).ends h

theorem mul_frame {P : Word} {frac : Bool} (hregs : regsNamed i = [0, 1]) (hflags : flagsWritten i = [.z, .c])
    (h : requires (Device.offersMul s.dev) (.next (mulWrite P frac s).advance) = .next t) : Frame i s t := by
  have hF : FlagUpdate (flagsWritten i) (mulFlags P frac) := hflags ▸ mulFlags_update P frac
  have h1 : (1 : Reg) ∈ regsNamed i := hregs ▸ by decide
  have h0 : (0 : Reg) ∈ regsNamed i := hregs ▸ by decide
  exact (((Frame.refl i s).setSreg hF).setPair h1 h0 _).ends (requires_eq_next h).2

theorem jumpRel_frame {k : Int} (h : jumpRel k s = .next t) : Frame i s t := by
  obtain ⟨-, rfl⟩ := jumpRel_eq_next h
  exact (Frame.refl i s).withPc _

theorem branchIf_frame {taken : Bool} {k : BitVec 7} (h : branchIf taken k s = .next t) : Frame i s t := by
  rcases branchIf_eq_next h with ⟨-, -, rfl⟩ | ⟨-, rfl⟩
  · exact (Frame.refl i s).withPc _
  · exact (Frame.refl i s).withPc _

theorem loadByte_frame {d : Reg} {a : Nat} {upd : State → State} (hl : loadsFrom i s = some a) (hd : d ∈ regsNamed i)
    (hupd : ∀ u, Frame i s u → Frame i s (upd u)) (h : loadByte d a upd s = .next t) : Frame i s t := by
  obtain ⟨b, s1, hr, rfl⟩ := loadByte_eq_next h
  exact (hupd _ ((Frame.memRead hl hr).setReg hd b)).withPc _

theorem storeByte_frame {r : Reg} {a : Nat} {upd : State → State} (hst : storesAt i s = some a)
    (hupd : ∀ u, Frame i s u → Frame i s (upd u)) (h : storeByte r a upd s = .next t) : Frame i s t := by
  obtain ⟨s1, hw, rfl⟩ := storeByte_eq_next h
  exact (hupd _ (Frame.memWrite hst hw)).withPc _

theorem loadProgByte_frame {d : Reg} {a : Nat} {upd : State → State} (hd : d ∈ regsNamed i)
    (hupd : ∀ u, Frame i s u → Frame i s (upd u)) (h : loadProgByte d a upd s = .next t) : Frame i s t := by
  obtain ⟨b, -, rfl⟩ := loadProgByte_eq_next h
  exact (hupd _ ((Frame.refl i s).setReg hd b)).withPc _

theorem storeProgWord_frame {upd : State → State} (hi : i = .spm ∨ i = .spmZInc)
    (hupd : ∀ u, Frame i s u → Frame i s (upd u)) (h : storeProgWord upd s = .next t) : Frame i s t := by
  obtain ⟨s1, hw, rfl⟩ := storeProgWord_eq_next h
  exact (hupd _ ((Frame.refl i s).progWrite hi hw)).withPc _

theorem readModifyWrite_frame {f : Byte → Byte → Byte} {d : Reg} (hd : d ∈ regsNamed i)
    (h : readModifyWrite f d s = .next t) : Frame i s t := by
  obtain ⟨-, m, -, rfl⟩ := readModifyWrite_eq_next h
  have hsram : Frame i s (s.sramWrite (addrZ s) (f (s.reg d) m)) := { Frame.refl i s with }
  exact (hsram.setReg hd m).withPc _

theorem execIn_frame {d : Reg} {A : BitVec 6} (h : execIn d A s = .next t) : Frame (.ioIn d A) s t := by
  obtain ⟨⟨b, s1⟩, hr, h⟩ := andThen_eq_next h
  exact ((Frame.ioRead (i := .ioIn d A) rfl hr).setReg (.head _) b).ends h

theorem execOut_frame {A : BitVec 6} {r : Reg} (h : execOut A r s = .next t) : Frame (.ioOut A r) s t := by
  obtain ⟨s1, hw, h⟩ := andThen_eq_next h
  exact (Frame.ioWrite (i := .ioOut A r) rfl hw).ends h

theorem execPush_frame {r : Reg} (h : execPush r s = .next t) : Frame (.push r) s t := by
  unfold execPush at h
  split at h
  · cases h
  · exact storeByte_frame rfl (fun _ hu => hu.withSp (fun hn => (hn r).1 rfl) _) h

theorem execPop_frame {d : Reg} (h : execPop d s = .next t) : Frame (.pop d) s t := by
  rw [execPop_eq_loadByte] at h
  exact loadByte_frame rfl (.head _) (fun _ hu => hu.withSp (fun hn => (hn d).2 rfl) _) h

theorem execDes_frame {K : BitVec 4} (h : execDes K s = .next t) : Frame (.des K) s t := by
  have hlow : ∀ j : Reg, j.val < 16 → j ∈ [(0 : Reg), 1, 2, 3, 4, 5, 6, 7, 8, 9, 10, 11, 12, 13, 14, 15] := by decide
  exact ((Frame.refl (.des K) s).setLowBlock hlow _).ends (requires_eq_next h).2

/-- An instruction that answers has changed no more than its frame allows. -/
theorem exec_frame (h : exec i s = .next t) : Frame i s t := by
  have hrefl := Frame.refl i s
  cases i with
  | and | andi | or | ori | eor | sbr | cbr => exact writeResult_frame (.head _) (logicFlags_update _) h
  | inc => exact writeResult_frame (.head _) (incFlags_update _) h
  | dec => exact writeResult_frame (.head _) (decFlags_update _) h
  | neg => exact writeResult_frame (.head _) (negFlags_update _ _) h
  | com => exact writeResult_frame (.head _) (comFlags_update _) h
  | clr => exact writeResult_frame (.head _) (withNVZ_update false false true) h
  | asr | lsr => exact writeResult_frame (.head _) (shiftFlags_update _ _) h
  | lsl => exact writeResult_frame (.head _) (lslFlags_update _ _) h
  | add | adc => exact writeResult_frame (.head _) (addFlags_update _ _ _) h
  | sub => exact writeResult_frame (.head _) (subFlags_update _ _ _) h
  | sbc => exact writeResult_frame (.head _) (sbcFlags_update _ _ _ s.sreg.z) h
  | tst => exact setSreg_frame (logicFlags_update _) h
  | cpi => exact setSreg_frame (subFlags_update _ _ _) h
  | bset | bclr | seh | clh | sec | sez | sen | sev | ses | setT | sei | clc => exact setSreg_frame (set_update _ _) h
  | ser | ldi | mov => exact (hrefl.setReg (.head _) _).ends h
  | movw => exact (hrefl.setPair (.tail _ (.head _)) (.head _) _).ends (requires_eq_next h).2
  | nop | wdr => exact hrefl.ends h
  | brk | sleep => cases h
  | des => exact execDes_frame h
  | fmulsu | mul | muls | mulsu | fmul | fmuls => exact mul_frame rfl rfl h
  | rjmp => exact jumpRel_frame h
  | ijmp => cases h; exact hrefl.withPc _
  | brbs | brbc | breq | brne | brcs | brlo | brcc | brsh | brmi | brpl | brlt | brge => exact branchIf_frame h
  | ldX => exact loadByte_frame rfl (.head _) (fun _ hu => hu) h
  | ldXInc d =>
    exact loadByte_frame rfl (.head _) (fun _ hu => hu.setWideX (by simp [regsNamed]) (fun hn => (hn d).1 rfl) _)
      (unlessConflict_eq_next h).2
  | ldDecX d =>
    exact loadByte_frame rfl (.head _) (fun _ hu => hu.setWideX (by simp [regsNamed]) (fun hn => (hn d).2 rfl) _)
      (unlessConflict_eq_next h).2
  | stZ => exact storeByte_frame rfl (fun _ hu => hu) h
  | stdZ => exact storeByte_frame rfl (fun _ hu => hu) (requires_eq_next h).2
  | stZInc r =>
    exact storeByte_frame rfl (fun _ hu => hu.setWideZ (by simp [regsNamed]) (fun hn => (hn r).1 rfl) _)
      (unlessConflict_eq_next h).2
  | stDecZ r =>
    exact storeByte_frame rfl (fun _ hu => hu.setWideZ (by simp [regsNamed]) (fun hn => (hn r).2.1 rfl) _)
      (unlessConflict_eq_next h).2
  | elpm | elpmZ => exact loadProgByte_frame (.head _) (fun _ hu => hu) (requires_eq_next h).2
  | elpmZInc d =>
    exact loadProgByte_frame (.head _) (fun _ hu => hu.setWideZ (by simp [regsNamed]) (fun hn => (hn d).2.2 rfl) _)
      (unlessConflict_eq_next (requires_eq_next h).2).2
  | lpmZInc =>
    exact loadProgByte_frame (.head _) (fun _ hu => hu.setPtrZ (by simp [regsNamed]) _)
      (unlessConflict_eq_next (requires_eq_next h).2).2
  | spm => exact storeProgWord_frame (.inl rfl) (fun _ hu => hu) (requires_eq_next h).2
  | spmZInc =>
    exact storeProgWord_frame (.inr rfl) (fun _ hu => hu.setPtrZ (by simp [regsNamed]) _) (requires_eq_next h).2
  | ioIn => exact execIn_frame h
  | ioOut => exact execOut_frame h
  | push => exact execPush_frame h
  | pop => exact execPop_frame h
  | xch | las | lac | lat => exact readModifyWrite_frame (.head _) (requires_eq_next h).2

end

/-- Settles O13, by the flags of `Frame`. -/
theorem flagsFrame : Obligations.FlagsFrame :=
  fun _ _ _ h => (exec_frame h).flags

/-- Settles O15, by the registers of `Frame`. -/
theorem registerFrame : Obligations.RegisterFrame :=
  fun _ _ _ h => (exec_frame h).regs

/-- Settles O17, by the other fields of `Frame`. -/
theorem specialFrame : Obligations.SpecialFrame := by
  intro i s t h
  obtain ⟨-, -, sp, rampz, rampx, rampy, rampd, eind, prog, ioLog, dev⟩ := exec_frame h
  exact ⟨sp, rampz, rampx, rampy, rampd, eind, prog, ioLog, dev⟩

-- The sign flag (R26)

/-- Settles O14: the rows that write S beside N and V write it by `withNVZ`; of the rest only SES, BSET and BCLR reach
S. -/
theorem signFlagRule : Obligations.SignFlagRule := by
  intro i s t h hs hses hbset hbclr
  cases i with
  | and | inc | neg | andi | or | ori | eor | com | dec | sbr | cbr | tst | clr | asr | lsr | lsl | add | adc | sub | sbc
  | cpi =>
    cases h
    rfl
  | ses => exact absurd rfl hses
  | bset f =>
    obtain rfl : Flag.s = f := List.mem_singleton.1 hs
    exact absurd rfl hbset
  | bclr f =>
    obtain rfl : Flag.s = f := List.mem_singleton.1 hs
    exact absurd rfl hbclr
  | _ => simp [flagsWritten] at hs

-- The same instruction with other flags (R29)

/-- Where `r` answers, `r'` answers the same but for `f`: how two runs that differ in their flags go side by side. -/
def Follows {α : Type} (f : α → α) (r r' : Res α) : Prop := ∀ a, r = .next a → r' = .next (f a)

namespace Follows

variable {α β : Type}

theorem next {f : α → α} {a b : α} (h : b = f a) : Follows f (.next a) (.next b) := by
  rintro _ ⟨⟩
  rw [h]

theorem andThen {f : α → α} {g : β → β} {r r' : Res α} {k k' : α → Res β} (hr : Follows f r r')
    (hk : ∀ a, Follows g (k a) (k' (f a))) : Follows g (andThen r k) (andThen r' k') := by
  intro b h
  obtain ⟨a, ha, hb⟩ := andThen_eq_next h
  rw [hr a ha, andThen_next]
  exact hk a b hb

theorem requires {f : State → State} {r r' : Res State} (has : Bool) (h : Follows f r r') :
    Follows f (requires has r) (requires has r') := by
  intro t ht
  obtain ⟨rfl, hr⟩ := requires_eq_next ht
  exact h t hr

theorem unlessConflict {f : State → State} {r r' : Res State} (conflict : Bool) (h : Follows f r r') :
    Follows f (unlessConflict conflict r) (unlessConflict conflict r') := by
  intro t ht
  obtain ⟨rfl, hr⟩ := unlessConflict_eq_next ht
  exact h t hr

end Follows

section
variable {s : State} {u : Sreg} {loc a : Nat}

theorem portByte_setSreg {p : IoPort} (hp : p ≠ .sreg) (s : State) (u : Sreg) (loc : Nat) :
    (s.setSreg u).portByte loc p = s.portByte loc p := by
  cases p with
  | sreg => exact absurd rfl hp
  | _ => rfl

theorem writePort_setSreg {p : IoPort} (hp : p ≠ .sreg) (s : State) (u : Sreg) (loc : Nat) (b : Byte) :
    (s.setSreg u).writePort loc b p = (s.writePort loc b p).setSreg u := by
  cases p with
  | sreg => exact absurd rfl hp
  | _ => rfl

theorem ioRead_follows (h : Device.ioPort s.dev loc ≠ some .sreg) :
    Follows (Prod.map id (State.setSreg · u)) (s.ioRead loc) ((s.setSreg u).ioRead loc) := by
  intro ⟨b, s1⟩ hr
  obtain ⟨p, hp, hhas, rfl, rfl⟩ := ioRead_eq_next hr
  have hne : p ≠ .sreg := fun e : p = .sreg => h (e ▸ hp)
  have hport : (s.setSreg u).portAt loc = .next p := by simp [State.portAt, hp, hhas]
  rw [State.ioRead, hport, andThen_next, portByte_setSreg hne]
  rfl

theorem ioWrite_follows {b : Byte} (h : Device.ioPort s.dev loc ≠ some .sreg) :
    Follows (State.setSreg · u) (s.ioWrite loc b) ((s.setSreg u).ioWrite loc b) := by
  intro s1 hw
  obtain ⟨p, hp, hhas, rfl⟩ := ioWrite_eq_next hw
  have hne : p ≠ .sreg := fun e : p = .sreg => h (e ▸ hp)
  have hport : (s.setSreg u).portAt loc = .next p := by simp [State.portAt, hp, hhas]
  rw [State.ioWrite, hport, andThen_next, writePort_setSreg hne]

theorem memRead_follows (h : ∀ loc, Device.classify s.dev a = .io loc → Device.ioPort s.dev loc ≠ some .sreg) :
    Follows (Prod.map id (State.setSreg · u)) (s.memRead a) ((s.setSreg u).memRead a) := by
  unfold State.memRead
  rw [setSreg_dev]
  cases hc : Device.classify s.dev a with
  | reg j => exact .next rfl
  | io loc => exact ioRead_follows (h loc hc)
  | sram => exact .andThen (fun _ hr => hr) fun _ => .next rfl
  | progByte b =>
    cases s.dev.progMapped with
    | true => exact .andThen (fun _ hr => hr) fun _ => .next rfl
    | false => exact fun _ hr => nomatch hr
  | unmapped => exact fun _ hr => nomatch hr

theorem memWrite_follows {b : Byte}
    (h : ∀ loc, Device.classify s.dev a = .io loc → Device.ioPort s.dev loc ≠ some .sreg) :
    Follows (State.setSreg · u) (s.memWrite a b) ((s.setSreg u).memWrite a b) := by
  unfold State.memWrite
  rw [setSreg_dev]
  cases hc : Device.classify s.dev a with
  | reg j => exact .next rfl
  | io loc => exact ioWrite_follows (h loc hc)
  | sram => exact .next rfl
  | progByte | unmapped => exact fun _ hr => nomatch hr

/-- A load goes alike where it does not read SREG; so must its pointer update. -/
theorem loadByte_follows {i : Instr} (hl : loadsFrom i s = some a) (hsreg : ¬ readsPort i s .sreg) {d : Reg}
    {upd : State → State} (hupd : ∀ w : State, upd (w.setSreg u) = (upd w).setSreg u) :
    Follows (State.setSreg · u) (loadByte d a upd s) (loadByte d a upd (s.setSreg u)) := by
  refine .andThen (memRead_follows fun loc hc hp => hsreg ?_) fun (v, s1) => ?_
  · exact readsPort_of_loc ((ioReadLoc_of_loadsFrom hl).trans (ioLocOf_io hc)) hp
  · exact .next (congrArg State.advance (hupd (s1.setReg d v)))

theorem storeByte_follows {i : Instr} (hst : storesAt i s = some a) (hsreg : ¬ writesPort i s .sreg) {r : Reg}
    {upd : State → State} (hupd : ∀ w : State, upd (w.setSreg u) = (upd w).setSreg u) :
    Follows (State.setSreg · u) (storeByte r a upd s) (storeByte r a upd (s.setSreg u)) := by
  refine .andThen (memWrite_follows fun loc hc hp => hsreg ?_) fun s1 => ?_
  · exact writesPort_of_loc ((ioWriteLoc_of_storesAt hst).trans (ioLocOf_io hc)) hp
  · exact .next (congrArg State.advance (hupd s1))

theorem loadProgByte_follows {d : Reg} {upd : State → State}
    (hupd : ∀ w : State, upd (w.setSreg u) = (upd w).setSreg u) :
    Follows (State.setSreg · u) (loadProgByte d a upd s) (loadProgByte d a upd (s.setSreg u)) := by
  have hbyte : Follows id (s.progByte a) ((s.setSreg u).progByte a) := fun _ hr => hr
  exact hbyte.andThen fun v => .next (congrArg State.advance (hupd (s.setReg d v)))

theorem progWrite_follows {w : Nat} {x : Word} :
    Follows (State.setSreg · u) (s.progWrite w x) ((s.setSreg u).progWrite w x) := by
  unfold State.progWrite
  rw [setSreg_dev]
  split
  · exact fun _ hr => nomatch hr
  · exact .next rfl

theorem storeProgWord_follows {upd : State → State} (hupd : ∀ w : State, upd (w.setSreg u) = (upd w).setSreg u) :
    Follows (State.setSreg · u) (storeProgWord upd s) (storeProgWord upd (s.setSreg u)) :=
  progWrite_follows.andThen fun s1 => .next (congrArg State.advance (hupd s1))

theorem readModifyWrite_follows {f : Byte → Byte → Byte} {d : Reg} :
    Follows (State.setSreg · u) (readModifyWrite f d s) (readModifyWrite f d (s.setSreg u)) := by
  have haddr : addrZ (s.setSreg u) = addrZ s := rfl
  have hread : Follows id (s.sramRead (addrZ s)) ((s.setSreg u).sramRead (addrZ s)) := fun _ hr => hr
  unfold readModifyWrite
  rw [setSreg_dev, haddr]
  cases Device.classify s.dev (addrZ s) with
  | sram => exact hread.andThen fun _ => .next rfl
  | reg | io | progByte | unmapped => exact fun _ hr => nomatch hr

theorem jumpRel_follows {k : Int} : Follows (State.setSreg · u) (jumpRel k s) (jumpRel k (s.setSreg u)) := by
  unfold jumpRel
  rw [setSreg_pc]
  split
  · exact fun _ hr => nomatch hr
  · exact .next rfl

theorem execIn_follows {d : Reg} {A : BitVec 6} (hsreg : ¬ readsPort (.ioIn d A) s .sreg) :
    Follows (State.setSreg · u) (execIn d A s) (execIn d A (s.setSreg u)) :=
  .andThen (ioRead_follows fun hp => hsreg (readsPort_of_loc rfl hp)) fun _ => .next rfl

theorem execOut_follows {A : BitVec 6} {r : Reg} (hsreg : ¬ writesPort (.ioOut A r) s .sreg) :
    Follows (State.setSreg · u) (execOut A r s) (execOut A r (s.setSreg u)) :=
  .andThen (ioWrite_follows fun hp => hsreg (writesPort_of_loc rfl hp)) fun _ => .next rfl

theorem execPush_follows {r : Reg} (hsreg : ¬ writesPort (.push r) s .sreg) :
    Follows (State.setSreg · u) (execPush r s) (execPush r (s.setSreg u)) := by
  unfold execPush
  rw [setSreg_sp]
  split
  · exact fun _ hr => nomatch hr
  · exact storeByte_follows rfl hsreg fun _ => rfl

theorem execPop_follows {d : Reg} (hsreg : ¬ readsPort (.pop d) s .sreg) :
    Follows (State.setSreg · u) (execPop d s) (execPop d (s.setSreg u)) := by
  rw [execPop_eq_loadByte, execPop_eq_loadByte, setSreg_sp]
  exact loadByte_follows rfl hsreg fun _ => rfl

/-- From `s` with the flags `u`, the instruction answers `t` but for SREG, and the flags it writes are those of `t`. -/
def AnswersAlike (i : Instr) (s : State) (u : Sreg) (t : State) : Prop :=
  Gives i (s.setSreg u) fun t' => t'.setSreg t.sreg = t ∧ ∀ f ∈ flagsWritten i, t'.sreg.get f = t.sreg.get f

/-- An instruction that leaves SREG alone carries the other flags through. -/
theorem answersAlike_of_follows {i : Instr} {t : State} (h : exec i s = .next t) (hi : flagsWritten i = [])
    (hf : Follows (State.setSreg · u) (exec i s) (exec i (s.setSreg u))) : AnswersAlike i s u t :=
  ⟨t.setSreg u, hf t h, rfl, fun _ hf => absurd (hi ▸ hf) List.not_mem_nil⟩

/-- An instruction that updates SREG applies the same update to the other flags. -/
theorem answersAlike_of_update {i : Instr} {t : State} {F : Sreg → Sreg} (hF : FlagUpdate (flagsWritten i) F)
    (ht : t.sreg = F s.sreg) (h : exec i (s.setSreg u) = .next (t.setSreg (F u))) : AnswersAlike i s u t :=
  ⟨t.setSreg (F u), h, rfl, fun f hf => ht ▸ hF.fixed u s.sreg f hf⟩

theorem answersAlike_of_writeResult {i : Instr} {t : State} {F : Sreg → Sreg} {d : Reg} {R : Byte}
    (hF : FlagUpdate (flagsWritten i) F) (h : writeResult d R (F s.sreg) s = .next t)
    (hu : exec i (s.setSreg u) = writeResult d R (F u) (s.setSreg u)) : AnswersAlike i s u t := by
  cases h
  exact answersAlike_of_update hF rfl hu

theorem answersAlike_of_setSreg {i : Instr} {t : State} {F : Sreg → Sreg} (hF : FlagUpdate (flagsWritten i) F)
    (h : (.next (s.setSreg (F s.sreg)).advance : Res State) = .next t)
    (hu : exec i (s.setSreg u) = .next ((s.setSreg u).setSreg (F u)).advance) : AnswersAlike i s u t := by
  cases h
  exact answersAlike_of_update hF rfl hu

theorem answersAlike_of_mul {i : Instr} {t : State} {P : Word} {frac : Bool} (hi : flagsWritten i = [.z, .c])
    (h : requires (Device.offersMul s.dev) (.next (mulWrite P frac s).advance) = .next t)
    (hu : exec i (s.setSreg u) =
      requires (Device.offersMul s.dev) (.next (mulWrite P frac (s.setSreg u)).advance)) : AnswersAlike i s u t := by
  obtain ⟨hoffers, h⟩ := requires_eq_next h
  rw [hoffers, requires_true] at hu
  have hF : FlagUpdate (flagsWritten i) (mulFlags P frac) := hi ▸ mulFlags_update P frac
  cases h
  exact answersAlike_of_update hF rfl hu

end

/-- Settles O19: an instruction that writes flags updates SREG by a `FlagUpdate`, and every other one goes alike with
the flags `u` (`Follows`). -/
theorem flagIndependence : Obligations.FlagIndependence := by
  intro i s t u hread hrd hwr h
  cases i with
  | des | brbs | brbc | breq | brne | brcs | brlo | brcc | brsh | brmi | brpl | brlt | brge | adc | sbc => cases hread
  | and | andi | or | ori | eor | sbr | cbr => exact answersAlike_of_writeResult (logicFlags_update _) h rfl
  | inc => exact answersAlike_of_writeResult (incFlags_update _) h rfl
  | dec => exact answersAlike_of_writeResult (decFlags_update _) h rfl
  | neg => exact answersAlike_of_writeResult (negFlags_update _ _) h rfl
  | com => exact answersAlike_of_writeResult (comFlags_update _) h rfl
  | clr => exact answersAlike_of_writeResult (withNVZ_update false false true) h rfl
  | asr | lsr => exact answersAlike_of_writeResult (shiftFlags_update _ _) h rfl
  | lsl => exact answersAlike_of_writeResult (lslFlags_update _ _) h rfl
  | add => exact answersAlike_of_writeResult (addFlags_update _ _ _) h rfl
  | sub => exact answersAlike_of_writeResult (subFlags_update _ _ _) h rfl
  | tst => exact answersAlike_of_setSreg (logicFlags_update _) h rfl
  | cpi => exact answersAlike_of_setSreg (subFlags_update _ _ _) h rfl
  | bset | bclr | seh | clh | sec | sez | sen | sev | ses | setT | sei | clc =>
    exact answersAlike_of_setSreg (set_update _ _) h rfl
  | fmulsu | mul | muls | mulsu | fmul | fmuls => exact answersAlike_of_mul rfl h rfl
  | ser | ldi | mov | nop | wdr | ijmp => exact answersAlike_of_follows h rfl (.next rfl)
  | movw => exact answersAlike_of_follows h rfl (.requires _ (.next rfl))
  | brk | sleep => cases h
  | rjmp => exact answersAlike_of_follows h rfl jumpRel_follows
  | ldX => exact answersAlike_of_follows h rfl (loadByte_follows rfl hrd fun _ => rfl)
  | ldXInc | ldDecX =>
    exact answersAlike_of_follows h rfl (.unlessConflict _ (loadByte_follows rfl hrd fun _ => rfl))
  | stZ => exact answersAlike_of_follows h rfl (storeByte_follows rfl hwr fun _ => rfl)
  | stdZ => exact answersAlike_of_follows h rfl (.requires _ (storeByte_follows rfl hwr fun _ => rfl))
  | stZInc | stDecZ =>
    exact answersAlike_of_follows h rfl (.unlessConflict _ (storeByte_follows rfl hwr fun _ => rfl))
  | elpm | elpmZ => exact answersAlike_of_follows h rfl (.requires _ (loadProgByte_follows fun _ => rfl))
  | elpmZInc | lpmZInc =>
    exact answersAlike_of_follows h rfl (.requires _ (.unlessConflict _ (loadProgByte_follows fun _ => rfl)))
  | spm | spmZInc => exact answersAlike_of_follows h rfl (.requires _ (storeProgWord_follows fun _ => rfl))
  | ioIn => exact answersAlike_of_follows h rfl (execIn_follows hrd)
  | ioOut => exact answersAlike_of_follows h rfl (execOut_follows hwr)
  | push => exact answersAlike_of_follows h rfl (execPush_follows hwr)
  | pop => exact answersAlike_of_follows h rfl (execPop_follows hrd)
  | xch | las | lac | lat => exact answersAlike_of_follows h rfl (.requires _ readModifyWrite_follows)

-- Pointers that move by one (R31, R60)

theorem ptrInc_cast (dev : Device) (a : Nat) :
    (ptrInc dev a : Int) = ((a : Int) + 1) % (if dev.hasRamp then 16777216 else 65536) := by
  unfold ptrInc Device.ptrSpan
  split <;> omega

theorem ptrDec_cast (dev : Device) (a : Nat) :
    (ptrDec dev a : Int) = ((a : Int) + -1) % (if dev.hasRamp then 16777216 else 65536) := by
  unfold ptrDec Device.ptrSpan
  split <;> omega

theorem addrZ_advance (s : State) : addrZ s.advance = addrZ s := rfl

/-- Z moves by `k` when it is set to a pointer that is `k` further than before the instruction. -/
theorem movesZ_setWideZ {s u : State} {b : Nat} {k : Int} (hdev : u.dev = s.dev) (hrampz : u.rampz = s.rampz)
    (hlt : b < Device.ptrSpan s.dev)
    (hb : (b : Int) = ((addrZ s : Int) + k) % (if s.dev.hasRamp then 16777216 else 65536)) :
    MovesZ s (u.setWideZ b).advance k := by
  have hspan : b < Device.ptrSpan u.dev := by rwa [hdev]
  refine ⟨by rw [addrZ_advance, addrZ_setWideZ hspan, hb], fun hramp => ?_⟩
  rw [advance_rampz, setWideZ_rampz, hdev, rampOf_of_not_hasRamp hramp, hrampz]

-- Stores and PUSH to the address of a register (R23, R54)

section
variable {s : State} {a : Nat} {j : Reg}

theorem storeByte_of_reg (hc : Device.classify s.dev a = .reg j) (r : Reg) (upd : State → State) :
    storeByte r a upd s = .next (upd (s.setReg j (s.reg r))).advance := by
  simp only [storeByte, State.memWrite, hc, andThen_next]

theorem sameOutside_setReg (s : State) (j : Reg) (v : Byte) : SameOutside s (s.setReg j v).advance :=
  ⟨rfl, ⟨rfl, rfl, rfl, rfl, rfl, rfl, rfl⟩, fun _ => rfl, fun _ => rfl⟩

theorem sameRegsBut_setReg (s : State) (j : Reg) (v : Byte) : SameRegsBut [j] s (s.setReg j v) :=
  fun _ hm => reg_setReg_other (List.ne_of_not_mem_cons hm).symm s v

theorem keeps_setReg (s : State) (j : Reg) (v : Byte) : Keeps [j] [] s (s.setReg j v).advance :=
  ⟨sameRegsBut_setReg s j v, fun _ _ => rfl, sameOutside_setReg s j v⟩

/-- A register is written and then Z moves: beyond RAMPZ nothing but the three registers changes. -/
theorem keeps_setReg_setWideZ (s : State) (j : Reg) (v : Byte) (b : Nat) :
    Keeps [j, 30, 31] [] s (((s.setReg j v).setWideZ b).advance.setRampz s.rampz) := by
  refine ⟨fun m hm => ?_, fun _ _ => rfl, rfl, ⟨rfl, rfl, rfl, rfl, rfl, rfl, rfl⟩, fun _ => rfl, fun _ => rfl⟩
  simp only [List.mem_cons, List.not_mem_nil, or_false, not_or] at hm
  obtain ⟨hj, h30, h31⟩ := hm
  have hz : isHalfOfZ m = false := by simp [isHalfOfZ, h30, h31]
  rw [reg_setRampz, reg_advance, reg_setWideZ hz, reg_setReg_other (Ne.symm hj)]

/-- A store that moves no pointer, to the address of a register. -/
theorem store_gives_reg {i : Instr} {r : Reg} (hc : Device.classify s.dev a = .reg j)
    (hi : exec i s = storeByte r a id s) :
    Gives i s fun t => t.reg j = s.reg r ∧ Keeps [j] [] s t ∧ t.pc = s.pc + 1 :=
  ⟨_, hi.trans (storeByte_of_reg hc r id), reg_setReg_self s j _, keeps_setReg s j _, rfl⟩

/-- A store that moves Z by `k` afterwards, to the address of a register; a half of Z takes the pointer instead
(log entry 19). -/
theorem storeWideZ_gives_reg {i : Instr} {r : Reg} {b : Nat} {k : Int} (hc : Device.classify s.dev a = .reg j)
    (hi : exec i s = storeByte r a (·.setWideZ b) s) (hlt : b < Device.ptrSpan s.dev)
    (hb : (b : Int) = ((addrZ s : Int) + k) % (if s.dev.hasRamp then 16777216 else 65536)) :
    Gives i s fun t => (isHalfOfZ j = false → t.reg j = s.reg r) ∧ MovesZ s t k ∧
      Keeps [j, 30, 31] [] s (t.setRampz s.rampz) ∧ t.pc = s.pc + 1 := by
  refine ⟨_, hi.trans (storeByte_of_reg hc r _), fun hj => ?_, movesZ_setWideZ rfl rfl hlt hb,
    keeps_setReg_setWideZ s j _ b, rfl⟩
  rw [reg_advance, reg_setWideZ hj, reg_setReg_self]

end

theorem execPush_of_sp_ne {s : State} (hsp : s.sp ≠ 0) (r : Reg) :
    execPush r s = storeByte r s.sp.toNat (fun t => { t with sp := s.sp - 1 }) s := if_neg hsp

theorem offersStd_iff {dev : Device} {q : BitVec 6} : Device.offersStd dev q = true ↔ q = 0 ∨ dev.core ≠ .avrrc := by
  simp only [Device.offersStd, Bool.or_eq_true, beq_iff_eq, bne_iff_ne]

/-- Settles O40, one clause of the statement per form of store. -/
theorem storeToRegister : Obligations.StoreToRegister := by
  intro s q r j
  refine ⟨fun hc => ?_, fun hr hc => ?_, fun hr hc => ?_, fun hq hc => ?_, fun hsp hc => ?_⟩
  · exact store_gives_reg hc rfl
  · have hi : exec (.stZInc r) s = storeByte r (addrZ s) (·.setWideZ (ptrInc s.dev (addrZ s))) s :=
      congrArg (unlessConflict · _) hr
    exact storeWideZ_gives_reg hc hi (ptrInc_lt _ _) (ptrInc_cast _ _)
  · have hi : exec (.stDecZ r) s = storeByte r (addrDecZ s) (·.setWideZ (addrDecZ s)) s :=
      congrArg (unlessConflict · _) hr
    exact storeWideZ_gives_reg hc hi (ptrDec_lt _ _) (ptrDec_cast _ _)
  · exact store_gives_reg hc (congrArg (requires · _) (offersStd_iff.2 hq))
  · have hpred : (s.sp - 1).toNat + 1 = s.sp.toNat := by bv_omega
    obtain ⟨-, hspecial, hmem⟩ := sameOutside_setReg s j (s.reg r)
    exact ⟨_, (execPush_of_sp_ne hsp r).trans (storeByte_of_reg hc r _), reg_setReg_self s j _, hpred,
      sameRegsBut_setReg s j _, fun _ _ => rfl, hspecial, hmem, rfl⟩

end Sys2Proof.Machine
end

section
/-! SUPPORT. The rules of 20_memory.md (SramFrame, ReadAfterWrite, PointerAddresses, StoreToIo, PairByteOrder,
DataSpaceByClass, IoByPort). An access to data space is said once per class of its address, an access to an I/O location
once per port, and a register pair once as a number; the statements are put together from these. -/

namespace Sys2Proof.Machine

-- A register pair as a number (R22, R50)

theorem append_byte_toNat (h l : Byte) : (h ++ l : Word).toNat = 256 * h.toNat + l.toNat := by
  rw [BitVec.toNat_append, ← Nat.shiftLeft_add_eq_or_of_lt l.isLt, Nat.shiftLeft_eq]
  omega

theorem pair_toNat (s : State) (hi lo : Reg) :
    (s.pair hi lo).toNat = 256 * (s.reg hi).toNat + (s.reg lo).toNat := append_byte_toNat _ _

theorem lowByte_toNat (w : Word) : (w.extractLsb' 0 8).toNat = w.toNat % 256 := by
  simp [BitVec.extractLsb'_toNat]

theorem highByte_toNat (w : Word) : (w.extractLsb' 8 8).toNat = w.toNat / 256 := by
  have hlt := w.isLt
  rw [BitVec.extractLsb'_toNat, Nat.shiftRight_eq_div_pow]
  omega

/-- Settles O26: the pairs as numbers, and what R1 and R0 read after a multiply. -/
theorem pairByteOrder : Obligations.PairByteOrder := by
  intro s
  refine ⟨pair_toNat s 27 26, pair_toNat s 29 28, pair_toNat s 31 30, fun P frac => ⟨?_, ?_⟩⟩
  · rw [reg_mulWrite, if_neg (by decide), if_pos rfl, highByte_toNat]
  · rw [reg_mulWrite, if_pos rfl, lowByte_toNat]

-- The pointers (R31, R60)

section
variable {dev : Device}

theorem ptrSpan_of_not_hasRamp (h : dev.hasRamp = false) : Device.ptrSpan dev = 65536 := by
  simp [Device.ptrSpan, h]

theorem ptrSpan_of_hasRamp (h : dev.hasRamp = true) : Device.ptrSpan dev = 16777216 := by
  simp [Device.ptrSpan, h]

theorem extend_pair_of_not_hasRamp (h : dev.hasRamp = false) (ramp : Byte) (s : State) (hi lo : Reg) :
    Device.extend dev ramp (s.pair hi lo) = 256 * (s.reg hi).toNat + (s.reg lo).toNat := by
  simp [Device.extend, h, pair_toNat]

theorem extend_pair_of_hasRamp (h : dev.hasRamp = true) (ramp : Byte) (s : State) (hi lo : Reg) :
    Device.extend dev ramp (s.pair hi lo) =
      65536 * ramp.toNat + 256 * (s.reg hi).toNat + (s.reg lo).toNat := by
  simp [Device.extend, h, pair_toNat, Nat.add_assoc]

theorem ptrDec_of_not_hasRamp (h : dev.hasRamp = false) (a : Nat) : ptrDec dev a = (a + 65535) % 65536 := by
  rw [ptrDec, ptrSpan_of_not_hasRamp h]

theorem ptrDec_of_hasRamp (h : dev.hasRamp = true) (a : Nat) : ptrDec dev a = (a + 16777215) % 16777216 := by
  rw [ptrDec, ptrSpan_of_hasRamp h]

end

/-- Settles O34, by the two kinds of device: the pointer as a number, and one lower modulo its span. -/
theorem pointerAddresses : Obligations.PointerAddresses := by
  refine fun s q => ⟨fun h => ⟨?_, ?_, ?_, ?_⟩, fun h => ⟨?_, ?_, ?_, ?_⟩, rfl⟩
  · exact extend_pair_of_not_hasRamp h s.rampx s 27 26
  · exact extend_pair_of_not_hasRamp h s.rampz s 31 30
  · exact ptrDec_of_not_hasRamp h (addrX s)
  · exact ptrDec_of_not_hasRamp h (addrZ s)
  · exact extend_pair_of_hasRamp h s.rampx s 27 26
  · exact extend_pair_of_hasRamp h s.rampz s 31 30
  · exact ptrDec_of_hasRamp h (addrX s)
  · exact ptrDec_of_hasRamp h (addrZ s)

-- An access to data space, by the class of its address (R54, R56 to R59)

section
variable {s : State} {a b : Nat}

theorem memRead_of_reg {j : Reg} (hc : Device.classify s.dev a = .reg j) : s.memRead a = .next (s.reg j, s) := by
  simp only [State.memRead, hc]

theorem memRead_of_io {loc : Nat} (hc : Device.classify s.dev a = .io loc) : s.memRead a = s.ioRead loc := by
  simp only [State.memRead, hc]

theorem memRead_of_sram (hc : Device.classify s.dev a = .sram) :
    s.memRead a = andThen (s.sramRead a) fun v => .next (v, s) := by
  simp only [State.memRead, hc]

theorem memRead_of_unmapped (hc : Device.classify s.dev a = .unmapped) : s.memRead a = .fault .dataOutOfRange := by
  simp only [State.memRead, hc]

theorem memRead_of_progByte_off (hc : Device.classify s.dev a = .progByte b) (hm : s.dev.progMapped = false) :
    s.memRead a = .fault .dataOutOfRange := by
  simp only [State.memRead, hc, hm, Bool.false_eq_true, if_false]

theorem memRead_of_progByte_on (hc : Device.classify s.dev a = .progByte b) (hm : s.dev.progMapped = true) :
    s.memRead a = andThen (s.progByte b) fun v => .next (v, s) := by
  simp only [State.memRead, hc, hm, if_true]

theorem memWrite_of_io {loc : Nat} (hc : Device.classify s.dev a = .io loc) (v : Byte) :
    s.memWrite a v = s.ioWrite loc v := by
  simp only [State.memWrite, hc]

theorem memWrite_of_unmapped (hc : Device.classify s.dev a = .unmapped) (v : Byte) :
    s.memWrite a v = .fault .dataOutOfRange := by
  simp only [State.memWrite, hc]

theorem memWrite_of_progByte (hc : Device.classify s.dev a = .progByte b) (v : Byte) :
    s.memWrite a v = .fault .dataOutOfRange := by
  simp only [State.memWrite, hc]

/-- Above RAMEND there is no data space (R54). -/
theorem classify_of_ramend_lt {dev : Device} (h : dev.ramend < a) : Device.classify dev a = .unmapped := if_pos h

theorem sramRead_of_some {v : Byte} (h : Memory.read s.mem a = some v) : s.sramRead a = .next v := by
  simp only [State.sramRead, h]

theorem sramRead_of_none (h : Memory.read s.mem a = none) : s.sramRead a = .fault .unwrittenRead := by
  simp only [State.sramRead, h]

end

-- A program byte (R52)

section
variable {s : State} {b : Nat}

theorem byteOfWord_eq (w : Word) (b : Nat) :
    byteOfWord w b = BitVec.ofNat 8 (if b % 2 = 0 then w.toNat % 256 else w.toNat / 256) := by
  unfold byteOfWord
  split
  · rw [← lowByte_toNat, BitVec.ofNat_toNat, BitVec.setWidth_eq]
  · rw [← highByte_toNat, BitVec.ofNat_toNat, BitVec.setWidth_eq]

theorem progByte_of_some {w : Word} (hle : b / 2 ≤ s.dev.flashend) (h : Memory.read s.prog (b / 2) = some w) :
    s.progByte b = .next (byteOfWord w b) := by
  simp only [State.progByte, State.progWord, if_neg (Nat.not_lt.2 hle), h, andThen_next]

theorem progByte_of_none (hle : b / 2 ≤ s.dev.flashend) (h : Memory.read s.prog (b / 2) = none) :
    s.progByte b = .fault .unwrittenRead := by
  simp only [State.progByte, State.progWord, if_neg (Nat.not_lt.2 hle), h, andThen_fault]

theorem progByte_of_flashend_lt (h : s.dev.flashend < b / 2) : s.progByte b = .fault .progReadOutOfRange := by
  simp only [State.progByte, State.progWord, if_pos h, andThen_fault]

end

/-- Settles O35, one clause per class of the address. -/
theorem dataSpaceByClass : Obligations.DataSpaceByClass := by
  refine fun s a => ⟨fun h => ?_, fun hc => ?_, fun j hc => ?_, fun v hc hv => ?_, fun hc hv => ?_, fun loc hc => ?_,
    fun b hc hm => ?_, fun b w hc hm hle hw => ?_, fun b hc hm hlt => ?_, fun b hc hm hle hw => ?_, fun v hc => ?_⟩
  · exact memRead_of_unmapped (classify_of_ramend_lt h)
  · exact memRead_of_unmapped hc
  · exact memRead_of_reg hc
  · rw [memRead_of_sram hc, sramRead_of_some hv, andThen_next]
  · rw [memRead_of_sram hc, sramRead_of_none hv, andThen_fault]
  · exact memRead_of_io hc
  · exact memRead_of_progByte_off hc hm
  · rw [memRead_of_progByte_on hc hm, progByte_of_some hle hw, andThen_next, byteOfWord_eq]
  · rw [memRead_of_progByte_on hc hm, progByte_of_flashend_lt hlt, andThen_fault]
  · rw [memRead_of_progByte_on hc hm, progByte_of_none hle hw, andThen_fault]
  · rcases hc with hc | ⟨b, hc⟩
    · exact memWrite_of_unmapped hc v
    · exact memWrite_of_progByte hc v

-- An access to an I/O location, by the port there (R57, R201, R202)

section
variable {s : State} {loc : Nat} {p : IoPort}

theorem ioAccess_of_no_port (h : Device.ioPort s.dev loc = none) (v : Byte) :
    s.ioRead loc = .refused .ioAccess ∧ s.ioWrite loc v = .refused .ioAccess := by
  have hport : s.portAt loc = .refused .ioAccess := by simp only [State.portAt, h]
  simp only [State.ioRead, State.ioWrite, hport, andThen_refused, and_self]

/-- A port answers where the device has its register, and is refused where the device lacks it (R10). -/
theorem ioAccess_by_hasPort (hp : Device.ioPort s.dev loc = some p) (v : Byte) :
    if Device.hasPort s.dev p = true
    then s.ioRead loc = .next (s.portByte loc p, s.logRead loc p) ∧ s.ioWrite loc v = .next (s.writePort loc v p)
    else s.ioRead loc = .refused .ioAccess ∧ s.ioWrite loc v = .refused .ioAccess := by
  split
  · next hhas =>
    have hport : s.portAt loc = .next p := by simp only [State.portAt, hp, if_pos hhas]
    simp only [State.ioRead, State.ioWrite, hport, andThen_next, and_self]
  · next hhas =>
    have hport : s.portAt loc = .refused .ioAccess := by simp only [State.portAt, hp, if_neg hhas]
    simp only [State.ioRead, State.ioWrite, hport, andThen_refused, and_self]

theorem ioAccess_of_port (hp : Device.ioPort s.dev loc = some p) (hhas : Device.hasPort s.dev p = true) (v : Byte) :
    s.ioRead loc = .next (s.portByte loc p, s.logRead loc p) ∧ s.ioWrite loc v = .next (s.writePort loc v p) := by
  simpa only [if_pos hhas] using ioAccess_by_hasPort hp v

end

theorem setSp_toNat (s : State) (w : Word) : (s.setSp w).sp.toNat = w.toNat % 2 ^ s.dev.spBits % 65536 := by
  rw [setSp_sp, BitVec.toNat_ofNat]

theorem sameSpecial_setSp (s : State) (w : Word) : SameSpecial s (s.setSp w) := ⟨rfl, rfl, rfl, rfl, rfl, rfl, rfl⟩

theorem sameMemories_of_eq {s t : State} (hmem : t.mem = s.mem) (hprog : t.prog = s.prog) : SameMemories s t :=
  ⟨fun _ => by rw [hmem], fun _ => by rw [hprog]⟩

/-- Settles O42, one clause per kind of port. -/
theorem ioByPort : Obligations.IoByPort := by
  refine fun s loc v => ⟨fun hp => ioAccess_of_no_port hp v, fun hp => ?sreg, fun hp => ?spl, fun hp => ?sph,
    fun p x t hmem hp => ?ramp, fun hp => ?device⟩
  case sreg =>
    obtain ⟨hr, hw⟩ := ioAccess_of_port hp rfl v
    exact ⟨hr, _, hw, sreg_toByte_ofByte v, rfl,
      ⟨rfl, ⟨rfl, rfl, rfl, rfl, rfl, rfl, rfl⟩, sameMemories_of_eq rfl rfl⟩, rfl⟩
  case spl =>
    obtain ⟨hr, hw⟩ := ioAccess_of_port hp rfl v
    refine ⟨⟨_, hr, lowByte_toNat s.sp⟩, _, hw, ?_, rfl, rfl, sameSpecial_setSp s _, sameMemories_of_eq rfl rfl, rfl⟩
    rw [State.writePort, setSp_toNat, append_byte_toNat, highByte_toNat, Nat.mul_comm 256]
  case sph =>
    obtain ⟨hr, hw⟩ := ioAccess_of_port hp rfl v
    refine ⟨⟨_, hr, highByte_toNat s.sp⟩, _, hw, ?_, rfl, rfl, sameSpecial_setSp s _, sameMemories_of_eq rfl rfl, rfl⟩
    rw [State.writePort, setSp_toNat, append_byte_toNat, lowByte_toNat]
  case ramp =>
    have hacc := ioAccess_by_hasPort hp v
    simp only [List.mem_cons, Prod.mk.injEq, List.not_mem_nil, or_false] at hmem
    -- In each case `hasPort`, `portByte` and `writePort` of the port are the three values listed with it.
    rcases hmem with ⟨rfl, rfl, rfl⟩ | ⟨rfl, rfl, rfl⟩ | ⟨rfl, rfl, rfl⟩ | ⟨rfl, rfl, rfl⟩ | ⟨rfl, rfl, rfl⟩
    all_goals exact hacc
  case device =>
    obtain ⟨hr, hw⟩ := ioAccess_of_port hp rfl v
    exact ⟨_, _, _, hr, hw, rfl, rfl, rfl, rfl, rfl, rfl, rfl, rfl, sameMemories_of_eq rfl rfl,
      sameMemories_of_eq rfl rfl⟩

-- A read of data space after a write (R63)

section
variable {s : State} {a b loc : Nat}

theorem memRead_setReg_self {j : Reg} (hc : Device.classify s.dev a = .reg j) (v : Byte) :
    (s.setReg j v).memRead a = .next (v, s.setReg j v) := by
  rw [memRead_of_reg (s := s.setReg j v) hc, reg_setReg_self]

theorem memRead_sramWrite_self (hc : Device.classify s.dev a = .sram) (v : Byte) :
    (s.sramWrite a v).memRead a = .next (v, s.sramWrite a v) := by
  rw [memRead_of_sram (s := s.sramWrite a v) hc, sramRead_of_some (memory_read_write_self s.mem a v), andThen_next]

theorem portByte_sramWrite (s : State) (a : Nat) (v : Byte) (loc : Nat) (p : IoPort) :
    (s.sramWrite a v).portByte loc p = s.portByte loc p := by
  cases p <;> rfl

/-- A read of an I/O location does not see SRAM. -/
theorem ioRead_sramWrite_follows (a : Nat) (v : Byte) :
    Follows (Prod.map id (State.sramWrite · a v)) (s.ioRead loc) ((s.sramWrite a v).ioRead loc) := by
  intro ⟨x, s1⟩ hr
  obtain ⟨p, hp, hhas, rfl, rfl⟩ := ioRead_eq_next hr
  obtain ⟨hread, -⟩ := ioAccess_of_port (s := s.sramWrite a v) hp hhas v
  rw [hread, portByte_sramWrite]
  rfl

theorem sramRead_sramWrite_other (h : b ≠ a) (v : Byte) : (s.sramWrite a v).sramRead b = s.sramRead b := by
  rw [State.sramRead, State.sramRead, sramWrite_mem, memory_read_write_other h]

/-- A write of SRAM leaves what is read at every other address, in every class. -/
theorem memRead_sramWrite_follows (h : b ≠ a) (v : Byte) :
    Follows (Prod.map id (State.sramWrite · a v)) (s.memRead b) ((s.sramWrite a v).memRead b) := by
  unfold State.memRead
  rw [sramWrite_dev]
  cases hc : Device.classify s.dev b with
  | reg j => exact .next rfl
  | io loc => exact ioRead_sramWrite_follows a v
  | sram =>
    rw [sramRead_sramWrite_other h]
    exact .andThen (fun _ hr => hr) fun _ => .next rfl
  | progByte c =>
    cases s.dev.progMapped with
    | true => exact .andThen (fun _ hr => hr) fun _ => .next rfl
    | false => exact fun _ hr => nomatch hr
  | unmapped => exact fun _ hr => nomatch hr

end

/-- Settles O20, by what a write that answers wrote. -/
theorem readAfterWrite : Obligations.ReadAfterWrite := by
  intro s t a v h
  rcases memWrite_eq_next h with ⟨j, hc, rfl⟩ | ⟨hc, rfl⟩ | ⟨loc, hc, -⟩
  · refine ⟨fun _ => memRead_setReg_self hc v, fun hsram => ?_⟩
    simp [hc] at hsram
  · exact ⟨fun _ => memRead_sramWrite_self hc v, fun _ b hb x hx => memRead_sramWrite_follows hb v (x, s) hx⟩
  · simp [hc]

-- Stores and PUSH to an I/O location (R54, R57)

section
variable {s s1 : State} {a loc : Nat} {r : Reg}

/-- A write of an I/O location leaves the registers, pc and the parameters, and RAMPZ where the device lacks it. -/
theorem ioWrite_leaves {v : Byte} (h : s.ioWrite loc v = .next s1) :
    (∀ j, s1.reg j = s.reg j) ∧ s1.pc = s.pc ∧ s1.dev = s.dev ∧ (s.dev.hasRamp = false → s1.rampz = s.rampz) := by
  obtain ⟨p, -, hhas, rfl⟩ := ioWrite_eq_next h
  refine ⟨reg_writePort s loc v p, writePort_pc s loc v p, writePort_dev s loc v p, fun hramp => ?_⟩
  rw [writePort_rampz]
  refine if_neg fun e : p = .rampz => ?_
  have hz : Device.hasPort s.dev .rampz = true := e ▸ hhas
  exact Bool.false_ne_true (hramp.symm.trans hz)

theorem storeByte_of_io (hc : Device.classify s.dev a = .io loc) (hw : s.ioWrite loc (s.reg r) = .next s1)
    (upd : State → State) : storeByte r a upd s = .next (upd s1).advance := by
  rw [storeByte, memWrite_of_io hc, hw, andThen_next]

/-- How `Obligations.StoreToIo` says a store ends, with `s1` what the write of the location left: beyond the registers
`ds`, pc alone is other than in `s1`. -/
def EndsIo (s s1 : State) (ds : List Reg) (t : State) : Prop :=
  SameRegsBut ds s t ∧ SameFlagsBut [] s1 t ∧ SameOutside s1 t ∧ t.pc = s.pc + 1

theorem exec_stZInc_eq_storeByte (hr : isHalfOfZ r = false) (s : State) :
    exec (.stZInc r) s = storeByte r (addrZ s) (·.setWideZ (ptrInc s.dev (addrZ s))) s :=
  congrArg (unlessConflict · _) hr

theorem exec_stDecZ_eq_storeByte (hr : isHalfOfZ r = false) (s : State) :
    exec (.stDecZ r) s = storeByte r (addrDecZ s) (·.setWideZ (addrDecZ s)) s :=
  congrArg (unlessConflict · _) hr

/-- A store that moves no pointer, to an I/O location. -/
theorem store_gives_io {i : Instr} (hw : s.ioWrite loc (s.reg r) = .next s1)
    (hc : Device.classify s.dev a = .io loc) (hi : exec i s = storeByte r a id s) : Gives i s (EndsIo s s1 []) := by
  obtain ⟨hreg, hpc, -, -⟩ := ioWrite_leaves hw
  exact ⟨_, hi.trans (storeByte_of_io hc hw id), fun j _ => hreg j, fun _ _ => rfl,
    ⟨rfl, ⟨rfl, rfl, rfl, rfl, rfl, rfl, rfl⟩, fun _ => rfl, fun _ => rfl⟩, congrArg (· + 1) hpc⟩

/-- As `movesZ_setWideZ`, where a store has written RAMPZ itself: the pointer replaces what it wrote (log entry 19). -/
theorem movesZ_setWideZ_of_write {u : State} {b : Nat} {k : Int} (hdev : u.dev = s.dev)
    (hrampz : s.dev.hasRamp = false → u.rampz = s.rampz) (hlt : b < Device.ptrSpan s.dev)
    (hb : (b : Int) = ((addrZ s : Int) + k) % (if s.dev.hasRamp then 16777216 else 65536)) :
    MovesZ s (u.setWideZ b).advance k := by
  have hspan : b < Device.ptrSpan u.dev := by rwa [hdev]
  refine ⟨by rw [addrZ_advance, addrZ_setWideZ hspan, hb], fun hramp => ?_⟩
  rw [advance_rampz, setWideZ_rampz, hdev, rampOf_of_not_hasRamp hramp, hrampz hramp]

theorem not_isHalfOfZ {j : Reg} (h : j ∉ [(30 : Reg), 31]) : isHalfOfZ j = false := by
  simp only [List.mem_cons, List.not_mem_nil, or_false, not_or] at h
  simp [isHalfOfZ, h]

/-- A store that moves Z by `k` afterwards, to an I/O location. -/
theorem storeWideZ_gives_io {i : Instr} {b : Nat} {k : Int} (hw : s.ioWrite loc (s.reg r) = .next s1)
    (hc : Device.classify s.dev a = .io loc) (hi : exec i s = storeByte r a (·.setWideZ b) s)
    (hlt : b < Device.ptrSpan s.dev)
    (hb : (b : Int) = ((addrZ s : Int) + k) % (if s.dev.hasRamp then 16777216 else 65536)) :
    Gives i s fun t => MovesZ s t k ∧ EndsIo s s1 [30, 31] (t.setRampz s1.rampz) := by
  obtain ⟨hreg, hpc, hdev, hrampz⟩ := ioWrite_leaves hw
  refine ⟨_, hi.trans (storeByte_of_io hc hw _), movesZ_setWideZ_of_write hdev hrampz hlt hb, fun j hj => ?_,
    fun _ _ => rfl, ⟨rfl, ⟨rfl, rfl, rfl, rfl, rfl, rfl, rfl⟩, fun _ => rfl, fun _ => rfl⟩, congrArg (· + 1) hpc⟩
  rw [reg_setRampz, reg_advance, reg_setWideZ (not_isHalfOfZ hj)]
  exact hreg j

end

/-- Settles O41, one clause of the statement per form of store. -/
theorem storeToIo : Obligations.StoreToIo := by
  intro s s1 q r loc hw
  refine ⟨fun hc => ?_, fun hr hc => ?_, fun hr hc => ?_, fun hq hc => ?_, fun hsp hc => ?_⟩
  · exact store_gives_io hw hc rfl
  · exact storeWideZ_gives_io hw hc (exec_stZInc_eq_storeByte hr s) (ptrInc_lt _ _) (ptrInc_cast _ _)
  · exact storeWideZ_gives_io hw hc (exec_stDecZ_eq_storeByte hr s) (ptrDec_lt _ _) (ptrDec_cast _ _)
  · exact store_gives_io hw hc (congrArg (requires · _) (offersStd_iff.2 hq))
  · have hpred : (s.sp - 1).toNat + 1 = s.sp.toNat := by bv_omega
    obtain ⟨hreg, hpc, -, -⟩ := ioWrite_leaves hw
    obtain ⟨hmem, hprog⟩ := ioWrite_memories hw
    exact ⟨_, (execPush_of_sp_ne hsp r).trans (storeByte_of_io hc hw _), hpred, fun j _ => hreg j,
      fun _ _ => rfl, ⟨rfl, rfl, rfl, rfl, rfl, rfl, rfl⟩, sameMemories_of_eq hmem hprog, congrArg (· + 1) hpc⟩

-- What an instruction does to SRAM (R54, R55)

/-- Begun at `s`, the instruction `i` has left SRAM as it was, or has written one byte, at the address it stores to. -/
def StoresOnly (i : Instr) (s t : State) : Prop :=
  t.mem = s.mem ∨ ∃ a v, storesAt i s = some a ∧ t.mem = Memory.write s.mem a v

theorem StoresOnly.read_eq {i : Instr} {s t : State} (h : StoresOnly i s t) {b : Nat} (hb : storesAt i s ≠ some b) :
    Memory.read t.mem b = Memory.read s.mem b := by
  rcases h with hmem | ⟨a, v, ha, hmem⟩
  · rw [hmem]
  · have hne : b ≠ a := fun e => hb (e ▸ ha)
    rw [hmem, memory_read_write_other hne]

section
variable {i : Instr} {s t : State}

theorem jumpRel_mem {k : Int} (h : jumpRel k s = .next t) : t.mem = s.mem := by
  obtain ⟨-, rfl⟩ := jumpRel_eq_next h
  rfl

theorem branchIf_mem {taken : Bool} {k : BitVec 7} (h : branchIf taken k s = .next t) : t.mem = s.mem := by
  rcases branchIf_eq_next h with ⟨-, -, rfl⟩ | ⟨-, rfl⟩ <;> rfl

/-- An instruction that ends by advancing from `u` leaves SRAM as `u` has it. -/
theorem advance_mem_eq {u : State} (h : (.next u.advance : Res State) = .next t) (hu : u.mem = s.mem) :
    t.mem = s.mem := by
  cases h
  exact hu

theorem loadByte_mem {d : Reg} {a : Nat} {upd : State → State}
    (h : loadByte d a upd s = .next t) (hupd : ∀ u, (upd u).mem = u.mem) : t.mem = s.mem := by
  obtain ⟨v, s1, hr, rfl⟩ := loadByte_eq_next h
  exact (hupd _).trans (memRead_memories hr).1

theorem execPop_mem {d : Reg} (h : execPop d s = .next t) : t.mem = s.mem := by
  rw [execPop_eq_loadByte] at h
  exact loadByte_mem h fun _ => rfl

theorem loadProgByte_mem {d : Reg} {a : Nat} {upd : State → State}
    (h : loadProgByte d a upd s = .next t) (hupd : ∀ u, (upd u).mem = u.mem) : t.mem = s.mem := by
  obtain ⟨v, -, rfl⟩ := loadProgByte_eq_next h
  exact hupd _

theorem storeProgWord_mem {upd : State → State} (h : storeProgWord upd s = .next t)
    (hupd : ∀ u, (upd u).mem = u.mem) : t.mem = s.mem := by
  obtain ⟨s1, hw, rfl⟩ := storeProgWord_eq_next h
  obtain ⟨-, rfl⟩ := progWrite_eq_next hw
  exact hupd _

theorem execIn_mem {d : Reg} {A : BitVec 6} (h : execIn d A s = .next t) : t.mem = s.mem := by
  obtain ⟨⟨v, s1⟩, hr, h⟩ := andThen_eq_next h
  cases h
  exact (ioRead_memories hr).1

theorem execOut_mem {A : BitVec 6} {r : Reg} (h : execOut A r s = .next t) : t.mem = s.mem := by
  obtain ⟨s1, hw, h⟩ := andThen_eq_next h
  cases h
  exact (ioWrite_memories hw).1

theorem memWrite_storesOnly {a : Nat} {v : Byte} (hst : storesAt i s = some a) (h : s.memWrite a v = .next t) :
    StoresOnly i s t := by
  rcases memWrite_eq_next h with ⟨_, -, rfl⟩ | ⟨-, rfl⟩ | ⟨_, -, hio⟩
  · exact .inl rfl
  · exact .inr ⟨a, v, hst, rfl⟩
  · exact .inl (ioWrite_memories hio).1

theorem storeByte_storesOnly {r : Reg} {a : Nat} {upd : State → State} (hst : storesAt i s = some a)
    (h : storeByte r a upd s = .next t) (hupd : ∀ u, (upd u).mem = u.mem) : StoresOnly i s t := by
  obtain ⟨s1, hw, rfl⟩ := storeByte_eq_next h
  have hmem : (upd s1).advance.mem = s1.mem := hupd s1
  unfold StoresOnly
  rw [hmem]
  exact memWrite_storesOnly hst hw

theorem readModifyWrite_storesOnly {f : Byte → Byte → Byte} {d : Reg} (hst : storesAt i s = some (addrZ s))
    (h : readModifyWrite f d s = .next t) : StoresOnly i s t := by
  obtain ⟨-, m, -, rfl⟩ := readModifyWrite_eq_next h
  exact .inr ⟨addrZ s, _, hst, rfl⟩

theorem execPush_storesOnly {r : Reg} (h : execPush r s = .next t) : StoresOnly (.push r) s t := by
  unfold execPush at h
  split at h
  · cases h
  · exact storeByte_storesOnly rfl h fun _ => rfl

/-- Every instruction that answers leaves SRAM, or writes the one byte it stores. -/
theorem exec_storesOnly (h : exec i s = .next t) : StoresOnly i s t := by
  cases i with
  | and | inc | neg | andi | or | ori | eor | com | dec | sbr | cbr | tst | clr | ser | asr | lsr | lsl | bset | bclr
  | seh | clh | sec | sez | sen | sev | ses | setT | sei | clc | add | adc | sub | sbc | cpi | ldi | mov | nop | wdr =>
    exact .inl (advance_mem_eq h rfl)
  | movw | fmulsu | mul | muls | mulsu | fmul | fmuls => exact .inl (advance_mem_eq (requires_eq_next h).2 rfl)
  | des => exact .inl (advance_mem_eq (requires_eq_next h).2 (setLowBlock_mem s _))
  | brk | sleep => cases h
  | ijmp =>
    cases h
    exact .inl rfl
  | rjmp => exact .inl (jumpRel_mem h)
  | brbs | brbc | breq | brne | brcs | brlo | brcc | brsh | brmi | brpl | brlt | brge => exact .inl (branchIf_mem h)
  | ldX => exact .inl (loadByte_mem h fun _ => rfl)
  | ldXInc | ldDecX => exact .inl (loadByte_mem (unlessConflict_eq_next h).2 fun _ => rfl)
  | pop => exact .inl (execPop_mem h)
  | elpm | elpmZ => exact .inl (loadProgByte_mem (requires_eq_next h).2 fun _ => rfl)
  | elpmZInc | lpmZInc =>
    exact .inl (loadProgByte_mem (unlessConflict_eq_next (requires_eq_next h).2).2 fun _ => rfl)
  | spm | spmZInc => exact .inl (storeProgWord_mem (requires_eq_next h).2 fun _ => rfl)
  | ioIn => exact .inl (execIn_mem h)
  | ioOut => exact .inl (execOut_mem h)
  | stZ => exact storeByte_storesOnly rfl h fun _ => rfl
  | stdZ => exact storeByte_storesOnly rfl (requires_eq_next h).2 fun _ => rfl
  | stZInc | stDecZ => exact storeByte_storesOnly rfl (unlessConflict_eq_next h).2 fun _ => rfl
  | push => exact execPush_storesOnly h
  | xch | las | lac | lat => exact readModifyWrite_storesOnly rfl (requires_eq_next h).2

end

/-- Settles O16, by the one byte an instruction may store. -/
theorem sramFrame : Obligations.SramFrame :=
  fun _ _ _ h _ hb => (exec_storesOnly h).read_eq hb

end Sys2Proof.Machine
end

section
/-! SUPPORT. The rows of 30_encoding.md (RowsShareNoWord): no word matches two of them, so a word decodes to what the
row that admits it builds. -/

namespace Sys2Proof

theorem admits_iff (row : Row) (w : Word) : row.admits w = true ↔ w &&& row.mask = row.pat := by
  simp [Row.admits]

/-- A bit that two rows fix with different values is not the bit of any word (R89). -/
theorem not_admits_of_disjoint {a b : Row} (h : a.disjoint b = true) (w : Word) :
    (a.admits w && b.admits w) = false := by
  rw [Bool.eq_false_iff]
  intro hw
  obtain ⟨ha, hb⟩ := Bool.and_eq_true_iff.1 hw
  rw [admits_iff] at ha hb
  refine absurd ?_ (bne_iff_ne.1 h)
  rw [← ha, ← hb]
  show _ = 0#16
  ext i hi
  simp only [BitVec.getElem_and, BitVec.getElem_xor, BitVec.getElem_zero]
  cases w[i] <;> cases a.mask[i] <;> cases b.mask[i] <;> rfl

theorem opcodeRows_disjoint : opcodeRows.Pairwise (fun a b => a.disjoint b = true) := by decide

/-- Settles O3: of two rows, some bit that both fix tells them apart. -/
theorem rowsShareNoWord : Obligations.RowsShareNoWord :=
  ⟨rfl, opcodeRows_disjoint.imp fun h w => not_admits_of_disjoint h w⟩

theorem eq_of_admits {a b : Row} {w : Word} (ha : a ∈ opcodeRows) (hb : b ∈ opcodeRows) (haw : a.admits w = true)
    (hbw : b.admits w = true) : a = b := by
  by_contra hne
  have : Std.Symm fun a b : Row => ∀ w : Word, (a.admits w && b.admits w) = false :=
    ⟨fun a b h w => (Bool.and_comm _ _).trans (h w)⟩
  have hnone := rowsShareNoWord.2.forall ha hb hne w
  simp [haw, hbw] at hnone

theorem decode_of_admits {row : Row} {w : Word} {i : Instr} (hrow : row ∈ opcodeRows) (hw : row.admits w = true)
    (hi : row.build w = i) : decode w = .ok i := by
  unfold decode
  split
  · next row' hfind =>
    have hw' : row'.admits w = true := List.find?_some (p := fun row : Row => row.admits w) hfind
    rw [eq_of_admits (List.mem_of_find?_eq_some hfind) hrow hw' hw, hi]
  · next hfind => exact absurd hw (List.find?_eq_none.1 hfind row hrow)

theorem exists_row_of_decode {w : Word} {i : Instr} (h : decode w = .ok i) :
    ∃ row ∈ opcodeRows, row.admits w = true ∧ row.build w = i := by
  unfold decode at h
  split at h
  · next row hfind =>
    cases h
    exact ⟨row, List.mem_of_find?_eq_some hfind, List.find?_some (p := fun row : Row => row.admits w) hfind, rfl⟩
  · cases h

end Sys2Proof
end

section
/-! SUPPORT. The formats of 30_encoding.md R82, R83. Words, fields and encodings are read as numbers. Each format has
one lemma `enc…_eq_iff` that says which words its encoding gives: those with the fixed bits of its rows from which the
decoder reads the operands. Both round trips follow from it. -/

namespace Sys2Proof

open BitVec

-- Bit vectors as numbers

theorem append_toNat {n m : Nat} (x : BitVec n) (y : BitVec m) : (x ++ y).toNat = 2 ^ m * x.toNat + y.toNat := by
  rw [toNat_append, ← Nat.shiftLeft_add_eq_or_of_lt y.isLt, Nat.shiftLeft_eq, Nat.mul_comm]

theorem extractLsb'_toNat_eq {n : Nat} (x : BitVec n) (s l : Nat) :
    (x.extractLsb' s l).toNat = x.toNat / 2 ^ s % 2 ^ l := by
  rw [extractLsb'_toNat, Nat.shiftRight_eq_div_pow]

theorem append_eq_iff {n m : Nat} {w : BitVec (n + m)} {x : BitVec n} {y : BitVec m} :
    w = x ++ y ↔ w.extractLsb' m n = x ∧ w.extractLsb' 0 m = y := by
  constructor
  · rintro rfl
    exact ⟨extractLsb'_append_eq_left, extractLsb'_append_eq_right⟩
  · rintro ⟨rfl, rfl⟩
    exact extractLsb'_append_extractLsb'.symm

/-- A mask and a pattern are compared part by part. -/
theorem and_append_eq_iff {n m : Nat} {w : BitVec (n + m)} {mhi phi : BitVec n} {mlo plo : BitVec m} :
    w &&& (mhi ++ mlo) = phi ++ plo ↔
      w.extractLsb' m n &&& mhi = phi ∧ w.extractLsb' 0 m &&& mlo = plo := by
  rw [append_eq_iff, extractLsb'_and, extractLsb'_and, extractLsb'_append_eq_left, extractLsb'_append_eq_right]

theorem upper_toNat {n m : Nat} (w : BitVec (n + m)) : (w.extractLsb' m n).toNat = w.toNat / 2 ^ m := by
  have hlt : w.toNat < 2 ^ m * 2 ^ n := by
    rw [Nat.mul_comm, ← Nat.pow_add]
    exact w.isLt
  rw [extractLsb'_toNat_eq, Nat.mod_eq_of_lt (Nat.div_lt_of_lt_mul hlt)]

/-- A mask of the upper bits. -/
theorem and_upper_eq_iff {n m : Nat} (w : BitVec (n + m)) (x : BitVec n) :
    w &&& (allOnes n ++ 0#m) = x ++ 0#m ↔ w.toNat / 2 ^ m = x.toNat := by
  rw [and_append_eq_iff, and_allOnes, and_zero, ← toNat_inj, upper_toNat]
  exact and_iff_left rfl

/-- A mask of all bits but some in the middle. -/
theorem and_outer_eq_iff {n m l : Nat} (w : BitVec (n + m + l)) (x : BitVec n) (y : BitVec l) :
    w &&& (allOnes n ++ 0#m ++ allOnes l) = x ++ 0#m ++ y ↔
      w.toNat / 2 ^ (m + l) = x.toNat ∧ w.toNat % 2 ^ l = y.toNat := by
  rw [and_append_eq_iff, and_upper_eq_iff, and_allOnes, ← toNat_inj (n := l), upper_toNat, extractLsb'_toNat_eq,
    Nat.div_div_eq_div_mul, ← Nat.pow_add, Nat.add_comm l m, Nat.pow_zero, Nat.div_one]

-- Register fields and flag numbers (R27, R85, R86, R88)

theorem field5_toNat (d : Reg) : d.field5.toNat = d.val := by simp [Reg.field5]
theorem field4_toNat (d : Reg) : d.field4.toNat = (d.val - 16) % 16 := by simp [Reg.field4]
theorem field3_toNat (d : Reg) : d.field3.toNat = (d.val - 16) % 8 := by simp [Reg.field3]
theorem pairField_toNat (d : Reg) : d.pairField.toNat = d.val / 2 := by
  simp only [Reg.pairField, toNat_ofNat]
  omega

theorem isHigh_iff (d : Reg) : d.isHigh = true ↔ 16 ≤ d.val := by simp [Reg.isHigh]
theorem isMul3_iff (d : Reg) : d.isMul3 = true ↔ 16 ≤ d.val ∧ d.val ≤ 23 := by simp [Reg.isMul3]
theorem isEven_iff (d : Reg) : d.isEven = true ↔ d.val % 2 = 0 := by simp [Reg.isEven]

theorem field5_regOfField5 (f : BitVec 5) : (regOfField5 f).field5 = f := by
  rw [← toNat_inj, field5_toNat, regOfField5]

theorem flagOfField_eq_iff (n : BitVec 3) (f : Flag) : flagOfField n = f ↔ n = f.index := by
  revert n
  cases f <;> decide

-- The operands a decoder reads, as numbers (R82, R83, R85 to R88)

theorem fieldD5_val (w : Word) : (fieldD5 w).val = w.toNat / 16 % 32 := by
  simp only [fieldD5, regOfField5, extractLsb'_toNat_eq, Nat.reducePow]

theorem fieldR5_val (w : Word) : (fieldR5 w).val = 16 * (w.toNat / 512 % 2) + w.toNat % 16 := by
  simp only [fieldR5, regOfField5, append_toNat, extractLsb'_toNat_eq]
  omega

theorem fieldD4_val (w : Word) : (fieldD4 w).val = 16 + w.toNat / 16 % 16 := by
  simp only [fieldD4, regOfField4, extractLsb'_toNat_eq, Nat.reducePow]

theorem fieldR4_val (w : Word) : (fieldR4 w).val = 16 + w.toNat % 16 := by
  simp only [fieldR4, regOfField4, extractLsb'_toNat_eq, Nat.reducePow, Nat.div_one]

theorem fieldD3_val (w : Word) : (fieldD3 w).val = 16 + w.toNat / 16 % 8 := by
  simp only [fieldD3, regOfField3, extractLsb'_toNat_eq, Nat.reducePow]

theorem fieldR3_val (w : Word) : (fieldR3 w).val = 16 + w.toNat % 8 := by
  simp only [fieldR3, regOfField3, extractLsb'_toNat_eq, Nat.reducePow, Nat.div_one]

theorem fieldDPair_val (w : Word) : (fieldDPair w).val = 2 * (w.toNat / 16 % 16) := by
  simp only [fieldDPair, regOfPairField, extractLsb'_toNat_eq, Nat.reducePow]

theorem fieldRPair_val (w : Word) : (fieldRPair w).val = 2 * (w.toNat % 16) := by
  simp only [fieldRPair, regOfPairField, extractLsb'_toNat_eq, Nat.reducePow, Nat.div_one]

theorem fieldK8_toNat (w : Word) : (fieldK8 w).toNat = 16 * (w.toNat / 256 % 16) + w.toNat % 16 := by
  simp only [fieldK8, append_toNat, extractLsb'_toNat_eq]
  omega

theorem fieldK12_toNat (w : Word) : (fieldK12 w).toNat = w.toNat % 4096 := by
  simp only [fieldK12, extractLsb'_toNat_eq, Nat.reducePow, Nat.div_one]

theorem fieldK7_toNat (w : Word) : (fieldK7 w).toNat = w.toNat / 8 % 128 := by
  simp only [fieldK7, extractLsb'_toNat_eq, Nat.reducePow]

theorem fieldQ6_toNat (w : Word) :
    (fieldQ6 w).toNat = 32 * (w.toNat / 8192 % 2) + 8 * (w.toNat / 1024 % 4) + w.toNat % 8 := by
  simp only [fieldQ6, append_toNat, extractLsb'_toNat_eq]
  omega

theorem fieldA6_toNat (w : Word) : (fieldA6 w).toNat = 16 * (w.toNat / 512 % 4) + w.toNat % 16 := by
  simp only [fieldA6, append_toNat, extractLsb'_toNat_eq]
  omega

theorem fieldRound_toNat (w : Word) : (fieldRound w).toNat = w.toNat / 16 % 16 := by
  simp only [fieldRound, extractLsb'_toNat_eq, Nat.reducePow]

theorem fieldFlagLow_eq_iff (w : Word) (f : Flag) : fieldFlagLow w = f ↔ w.toNat % 8 = f.index.toNat := by
  rw [fieldFlagLow, flagOfField_eq_iff, ← toNat_inj, extractLsb'_toNat_eq]
  simp

theorem fieldFlagHigh_eq_iff (w : Word) (f : Flag) : fieldFlagHigh w = f ↔ w.toNat / 16 % 8 = f.index.toNat := by
  rw [fieldFlagHigh, flagOfField_eq_iff, ← toNat_inj, extractLsb'_toNat_eq]
  simp only [Nat.reducePow]

theorem fieldD4_isHigh (w : Word) : (fieldD4 w).isHigh = true := by rw [isHigh_iff, fieldD4_val]; omega
theorem fieldR4_isHigh (w : Word) : (fieldR4 w).isHigh = true := by rw [isHigh_iff, fieldR4_val]; omega
theorem fieldD3_isMul3 (w : Word) : (fieldD3 w).isMul3 = true := by rw [isMul3_iff, fieldD3_val]; omega
theorem fieldR3_isMul3 (w : Word) : (fieldR3 w).isMul3 = true := by rw [isMul3_iff, fieldR3_val]; omega
theorem fieldDPair_isEven (w : Word) : (fieldDPair w).isEven = true := by rw [isEven_iff, fieldDPair_val]; omega
theorem fieldRPair_isEven (w : Word) : (fieldRPair w).isEven = true := by rw [isEven_iff, fieldRPair_val]; omega

-- Format `RdRr5`

theorem encRdRr5_toNat (o : BitVec 6) (d r : Reg) :
    (encRdRr5 o d r).toNat = 1024 * o.toNat + 512 * (r.val / 16) + 16 * d.val + r.val % 16 := by
  simp only [encRdRr5, append_toNat, extractLsb'_toNat_eq, field5_toNat]
  omega

theorem encRdRr5_eq_iff (o : BitVec 6) (d r : Reg) (w : Word) :
    encRdRr5 o d r = w ↔ w &&& 0xFC00 = o ++ 0#10 ∧ fieldD5 w = d ∧ fieldR5 w = r := by
  have hmask : w &&& 0xFC00 = o ++ 0#10 ↔ w.toNat / 1024 = o.toNat := and_upper_eq_iff (n := 6) (m := 10) w o
  rw [hmask, ← toNat_inj, encRdRr5_toNat, Fin.ext_iff, fieldD5_val, Fin.ext_iff, fieldR5_val]
  omega

-- Formats `Rd5` and `LdSt`

/-- The word of the formats with one five-bit register, `Rd5` and `LdSt`. -/
def encOneReg (a : BitVec 7) (d : Reg) (o : BitVec 4) : Word := a ++ d.field5 ++ o

theorem encRd5_eq_encOneReg (d : Reg) (o : BitVec 4) : encRd5 d o = encOneReg 0b1001010 d o := rfl

theorem encLdSt_eq_encOneReg (s : BitVec 1) (d : Reg) (o : BitVec 4) :
    encLdSt s d o = encOneReg (0b100100#6 ++ s) d o := rfl

theorem encOneReg_toNat (a : BitVec 7) (d : Reg) (o : BitVec 4) :
    (encOneReg a d o).toNat = 512 * a.toNat + 16 * d.val + o.toNat := by
  simp only [encOneReg, append_toNat, field5_toNat]
  omega

theorem encOneReg_eq_iff (a : BitVec 7) (d : Reg) (o : BitVec 4) (w : Word) :
    encOneReg a d o = w ↔ w &&& 0xFE0F = a ++ 0#5 ++ o ∧ fieldD5 w = d := by
  have hmask : w &&& 0xFE0F = a ++ 0#5 ++ o ↔ w.toNat / 512 = a.toNat ∧ w.toNat % 16 = o.toNat :=
    and_outer_eq_iff (n := 7) (m := 5) (l := 4) w a o
  rw [hmask, ← toNat_inj, encOneReg_toNat, Fin.ext_iff, fieldD5_val]
  omega

-- Format `Imm8`

theorem encImm8_toNat (o : BitVec 4) {d : Reg} (hd : d.isHigh = true) (K : Byte) :
    (encImm8 o d K).toNat = 4096 * o.toNat + 256 * (K.toNat / 16) + 16 * (d.val - 16) + K.toNat % 16 := by
  rw [isHigh_iff] at hd
  simp only [encImm8, append_toNat, extractLsb'_toNat_eq, field4_toNat]
  omega

theorem encImm8_eq_iff (o : BitVec 4) {d : Reg} (hd : d.isHigh = true) (K : Byte) (w : Word) :
    encImm8 o d K = w ↔ w &&& 0xF000 = o ++ 0#12 ∧ fieldD4 w = d ∧ fieldK8 w = K := by
  have hmask : w &&& 0xF000 = o ++ 0#12 ↔ w.toNat / 4096 = o.toNat := and_upper_eq_iff (n := 4) (m := 12) w o
  rw [hmask, ← toNat_inj, encImm8_toNat o hd, Fin.ext_iff, fieldD4_val, ← toNat_inj, fieldK8_toNat]
  rw [isHigh_iff] at hd
  omega

-- Format `Mul3`

theorem encMul3_toNat (f g : BitVec 1) {d r : Reg} (hd : d.isMul3 = true) (hr : r.isMul3 = true) :
    (encMul3 f g d r).toNat = 768 + 128 * f.toNat + 16 * (d.val - 16) + 8 * g.toNat + (r.val - 16) := by
  rw [isMul3_iff] at hd hr
  simp only [encMul3, append_toNat, field3_toNat, toNat_ofNat]
  omega

/-- The mask of `Mul3`, in the parts of its layout. -/
theorem and_mul3Mask_eq_iff (w : BitVec (8 + 1 + 3 + 1 + 3)) (f g : BitVec 1) :
    w &&& (allOnes 8 ++ allOnes 1 ++ 0#3 ++ allOnes 1 ++ 0#3) = 0b11#8 ++ f ++ 0#3 ++ g ++ 0#3 ↔
      w.toNat / 256 = 3 ∧ w.toNat / 128 % 2 = f.toNat ∧ w.toNat / 8 % 2 = g.toNat := by
  rw [and_append_eq_iff, and_append_eq_iff, and_append_eq_iff, and_append_eq_iff]
  simp only [and_allOnes, and_zero, and_true, ← toNat_inj, extractLsb'_toNat_eq, toNat_ofNat]
  omega

theorem encMul3_eq_iff (f g : BitVec 1) {d r : Reg} (hd : d.isMul3 = true) (hr : r.isMul3 = true) (w : Word) :
    encMul3 f g d r = w ↔ w &&& 0xFF88 = 0b11#8 ++ f ++ 0#3 ++ g ++ 0#3 ∧ fieldD3 w = d ∧ fieldR3 w = r := by
  have hmask : w &&& 0xFF88 = 0b11#8 ++ f ++ 0#3 ++ g ++ 0#3 ↔
      w.toNat / 256 = 3 ∧ w.toNat / 128 % 2 = f.toNat ∧ w.toNat / 8 % 2 = g.toNat := and_mul3Mask_eq_iff w f g
  rw [hmask, ← toNat_inj, encMul3_toNat f g hd hr, Fin.ext_iff, fieldD3_val, Fin.ext_iff, fieldR3_val]
  rw [isMul3_iff] at hd hr
  omega

-- Format `Disp6`

theorem encStdZ_toNat (q : BitVec 6) (r : Reg) : (encStdZ q r).toNat =
    33280 + 8192 * (q.toNat / 32) + 1024 * (q.toNat / 8 % 4) + 16 * r.val + q.toNat % 8 := by
  simp only [encStdZ, append_toNat, extractLsb'_toNat_eq, field5_toNat, toNat_ofNat]
  omega

/-- The mask of `Disp6`, in the parts of its layout (R87). -/
theorem and_disp6Mask_eq_iff (w : BitVec (2 + 1 + 1 + 2 + 1 + 5 + 1 + 3)) :
    w &&& (allOnes 2 ++ 0#1 ++ allOnes 1 ++ 0#2 ++ allOnes 1 ++ 0#5 ++ allOnes 1 ++ 0#3) =
        0b10#2 ++ 0#1 ++ 0#1 ++ 0#2 ++ 1#1 ++ 0#5 ++ 0#1 ++ 0#3 ↔
      w.toNat / 16384 = 2 ∧ w.toNat / 4096 % 2 = 0 ∧ w.toNat / 512 % 2 = 1 ∧ w.toNat / 8 % 2 = 0 := by
  rw [and_append_eq_iff, and_append_eq_iff, and_append_eq_iff, and_append_eq_iff, and_append_eq_iff,
    and_append_eq_iff, and_append_eq_iff]
  simp only [and_allOnes, and_zero, and_true, ← toNat_inj, extractLsb'_toNat_eq, toNat_ofNat]
  omega

theorem fieldQ6_eq_iff (w : Word) (q : BitVec 6) : fieldQ6 w = q ↔
    w.toNat / 8192 % 2 = q.toNat / 32 ∧ w.toNat / 1024 % 4 = q.toNat / 8 % 4 ∧ w.toNat % 8 = q.toNat % 8 := by
  rw [← toNat_inj, fieldQ6_toNat]
  omega

/-- The parts of a `Disp6` word, `a`, `b` and `c` those of the displacement, are its digits. -/
theorem disp6_digits_iff {a b c r w : Nat} (ha : a < 2) (hb : b < 4) (hc : c < 8) (hr : r < 32) (hw : w < 65536) :
    33280 + 8192 * a + 1024 * b + 16 * r + c = w ↔
      (w / 16384 = 2 ∧ w / 4096 % 2 = 0 ∧ w / 512 % 2 = 1 ∧ w / 8 % 2 = 0) ∧
      (w / 8192 % 2 = a ∧ w / 1024 % 4 = b ∧ w % 8 = c) ∧ w / 16 % 32 = r := by
  omega

theorem encStdZ_eq_iff (q : BitVec 6) (r : Reg) (w : Word) :
    encStdZ q r = w ↔ w &&& 0xD208 = 0x8200 ∧ fieldQ6 w = q ∧ fieldD5 w = r := by
  have hmask : w &&& 0xD208 = 0x8200 ↔
      w.toNat / 16384 = 2 ∧ w.toNat / 4096 % 2 = 0 ∧ w.toNat / 512 % 2 = 1 ∧ w.toNat / 8 % 2 = 0 :=
    and_disp6Mask_eq_iff w
  rw [hmask, ← toNat_inj, encStdZ_toNat, fieldQ6_eq_iff, Fin.ext_iff, fieldD5_val]
  exact disp6_digits_iff (by omega) (by omega) (by omega) r.isLt w.isLt

-- Formats `Mul4` and `Movw`

/-- The word of `Mul4`, MULS alone. -/
def encMul4 (d r : Reg) : Word := 0b00000010#8 ++ d.field4 ++ r.field4

/-- The word of `Movw`, MOVW alone. -/
def encMovw (d r : Reg) : Word := 0b00000001#8 ++ d.pairField ++ r.pairField

theorem encode_muls (d r : Reg) : encode (.muls d r) = encMul4 d r := rfl

theorem encode_movw (d r : Reg) : encode (.movw d r) = encMovw d r := rfl

theorem encMul4_toNat {d r : Reg} (hd : d.isHigh = true) (hr : r.isHigh = true) :
    (encMul4 d r).toNat = 512 + 16 * (d.val - 16) + (r.val - 16) := by
  rw [isHigh_iff] at hd hr
  simp only [encMul4, append_toNat, field4_toNat, toNat_ofNat]
  omega

theorem encMul4_eq_iff {d r : Reg} (hd : d.isHigh = true) (hr : r.isHigh = true) (w : Word) :
    encMul4 d r = w ↔ w &&& 0xFF00 = 0x0200 ∧ fieldD4 w = d ∧ fieldR4 w = r := by
  have hmask : w &&& 0xFF00 = 0x0200 ↔ w.toNat / 256 = 2 := and_upper_eq_iff (n := 8) (m := 8) w 2
  rw [hmask, ← toNat_inj, encMul4_toNat hd hr, Fin.ext_iff, fieldD4_val, Fin.ext_iff, fieldR4_val]
  rw [isHigh_iff] at hd hr
  omega

theorem encMovw_toNat (d r : Reg) : (encMovw d r).toNat = 256 + 16 * (d.val / 2) + r.val / 2 := by
  simp only [encMovw, append_toNat, pairField_toNat, toNat_ofNat]
  omega

theorem encMovw_eq_iff {d r : Reg} (hd : d.isEven = true) (hr : r.isEven = true) (w : Word) :
    encMovw d r = w ↔ w &&& 0xFF00 = 0x0100 ∧ fieldDPair w = d ∧ fieldRPair w = r := by
  have hmask : w &&& 0xFF00 = 0x0100 ↔ w.toNat / 256 = 1 := and_upper_eq_iff (n := 8) (m := 8) w 1
  rw [hmask, ← toNat_inj, encMovw_toNat, Fin.ext_iff, fieldDPair_val, Fin.ext_iff, fieldRPair_val]
  rw [isEven_iff] at hd hr
  omega

-- Formats `Rel12`, `Br7`, `Sflag`, `Io` and `Des`

theorem encRel12_eq_iff (k : BitVec 12) (w : Word) :
    0b1100#4 ++ k = w ↔ w &&& 0xF000 = 0xC000 ∧ fieldK12 w = k := by
  have hmask : w &&& 0xF000 = 0xC000 ↔ w.toNat / 4096 = 12 := and_upper_eq_iff (n := 4) (m := 12) w 12
  rw [hmask, ← toNat_inj, append_toNat, ← toNat_inj, fieldK12_toNat, toNat_ofNat]
  omega

theorem encBr7_toNat (b : BitVec 1) (k : BitVec 7) (s : BitVec 3) :
    (encBr7 b k s).toNat = 61440 + 1024 * b.toNat + 8 * k.toNat + s.toNat := by
  simp only [encBr7, append_toNat, toNat_ofNat]
  omega

theorem encBr7_eq_iff (b : BitVec 1) (k : BitVec 7) (f : Flag) (w : Word) :
    encBr7 b k f.index = w ↔ w &&& 0xFC00 = 0b11110#5 ++ b ++ 0#10 ∧ fieldFlagLow w = f ∧ fieldK7 w = k := by
  have hmask : w &&& 0xFC00 = 0b11110#5 ++ b ++ 0#10 ↔ w.toNat / 1024 = (0b11110#5 ++ b).toNat :=
    and_upper_eq_iff (n := 6) (m := 10) w (0b11110#5 ++ b)
  rw [hmask, ← toNat_inj, encBr7_toNat, append_toNat, toNat_ofNat, fieldFlagLow_eq_iff, ← toNat_inj, fieldK7_toNat]
  omega

theorem encSflag_toNat (c : BitVec 1) (s : BitVec 3) :
    (encSflag c s).toNat = 37896 + 128 * c.toNat + 16 * s.toNat := by
  simp only [encSflag, append_toNat, toNat_ofNat]
  omega

theorem encSflag_eq_iff (c : BitVec 1) (f : Flag) (w : Word) :
    encSflag c f.index = w ↔ w &&& 0xFF8F = 0b10010100#8 ++ c ++ 0#3 ++ 0b1000#4 ∧ fieldFlagHigh w = f := by
  have hmask : w &&& 0xFF8F = 0b10010100#8 ++ c ++ 0#3 ++ 0b1000#4 ↔
      w.toNat / 128 = (0b10010100#8 ++ c).toNat ∧ w.toNat % 16 = 8 :=
    and_outer_eq_iff (n := 9) (m := 3) (l := 4) w (0b10010100#8 ++ c) 0b1000#4
  rw [hmask, ← toNat_inj, encSflag_toNat, append_toNat, toNat_ofNat, fieldFlagHigh_eq_iff]
  omega

theorem encIo_toNat (s : BitVec 1) (A : BitVec 6) (d : Reg) :
    (encIo s A d).toNat = 45056 + 2048 * s.toNat + 512 * (A.toNat / 16) + 16 * d.val + A.toNat % 16 := by
  simp only [encIo, append_toNat, extractLsb'_toNat_eq, field5_toNat, toNat_ofNat]
  omega

theorem encIo_eq_iff (s : BitVec 1) (A : BitVec 6) (d : Reg) (w : Word) :
    encIo s A d = w ↔ w &&& 0xF800 = 0b1011#4 ++ s ++ 0#11 ∧ fieldD5 w = d ∧ fieldA6 w = A := by
  have hmask : w &&& 0xF800 = 0b1011#4 ++ s ++ 0#11 ↔ w.toNat / 2048 = (0b1011#4 ++ s).toNat :=
    and_upper_eq_iff (n := 5) (m := 11) w (0b1011#4 ++ s)
  rw [hmask, ← toNat_inj, encIo_toNat, append_toNat, toNat_ofNat, Fin.ext_iff, fieldD5_val, ← toNat_inj, fieldA6_toNat]
  omega

theorem encDes_eq_iff (K : BitVec 4) (w : Word) :
    0b10010100#8 ++ K ++ 0b1011#4 = w ↔ w &&& 0xFF0F = 0x940B ∧ fieldRound w = K := by
  have hmask : w &&& 0xFF0F = 0x940B ↔ w.toNat / 256 = 0x94 ∧ w.toNat % 16 = 11 :=
    and_outer_eq_iff (n := 8) (m := 4) (l := 4) w 0x94 0b1011
  rw [hmask, ← toNat_inj, append_toNat, append_toNat, toNat_ofNat, toNat_ofNat, ← toNat_inj, fieldRound_toNat]
  omega

end Sys2Proof
end

section
/-! SUPPORT. The rows of the opcode table, by formats. Each is shown with the opcodes of its format, whose words the
decoder reads back (`decode_…`), and is faithful: a word it admits is the word of what it builds. -/

namespace Sys2Proof

open BitVec

/-- `w` is the word of `i`, and `i` is well formed and the canonical spelling. -/
def IsWordOf (w : Word) (i : Instr) : Prop := encode i = w ∧ i.WellFormed = true ∧ i.canonical = i

theorem IsWordOf.of_eq {v w : Word} {i : Instr} (h : v = w) (hv : IsWordOf v i) : IsWordOf w i := h ▸ hv

/-- Every word with the row's fixed bits is the word of what the row builds from it. -/
def Row.Faithful (row : Row) : Prop := ∀ w : Word, w &&& row.mask = row.pat → IsWordOf w (row.build w)

/-- The parts of the table. -/
def rowLists : List (List Row) :=
  [rowsRdRr5, rowsMul, rowsImm8, rowsRd5, rowsLoad, rowsStore, rowsOther, rowsFixed]

theorem opcodeRows_eq_flatten : opcodeRows = rowLists.flatten := rfl

theorem decode_of_row {rows : List Row} {row : Row} {w : Word} {i : Instr} (hrows : rows ∈ rowLists) (hrow : row ∈ rows)
    (hw : w &&& row.mask = row.pat) (hi : row.build w = i) : decode w = .ok i := by
  have hmem : row ∈ opcodeRows := opcodeRows_eq_flatten ▸ List.mem_flatten_of_mem hrows hrow
  exact decode_of_admits hmem ((admits_iff row w).2 hw) hi

-- `RdRr5`

/-- Bits 15:10 of a word of `RdRr5` and the instruction they stand for. -/
def codesRdRr5 : List (BitVec 6 × (Reg → Reg → Instr)) := [(0b000010, .sbc), (0b000011, .add), (0b000110, .sub),
  (0b000111, .adc), (0b001000, .and), (0b001001, .eor), (0b001010, .or), (0b001011, .mov), (0b100111, .mul)]

/-- The row of an opcode of `RdRr5`. -/
def rowRdRr5 (e : BitVec 6 × (Reg → Reg → Instr)) : Row :=
  ⟨0xFC00, e.1 ++ 0#10, fun w => e.2 (fieldD5 w) (fieldR5 w)⟩

theorem rowsRdRr5_eq : rowsRdRr5 = codesRdRr5.map rowRdRr5 := rfl

theorem isWordOf_encRdRr5 : ∀ e ∈ codesRdRr5, ∀ d r, IsWordOf (encRdRr5 e.1 d r) (e.2 d r) := by
  simp only [codesRdRr5, List.forall_mem_cons, List.not_mem_nil, false_implies, implies_true, and_true]
  refine ⟨?_, ?_, ?_, ?_, ?_, ?_, ?_, ?_, ?_⟩ <;> exact fun _ _ => ⟨rfl, rfl, rfl⟩

theorem decode_encRdRr5 {o : BitVec 6} {f : Reg → Reg → Instr} (he : (o, f) ∈ codesRdRr5) (d r : Reg) :
    decode (encRdRr5 o d r) = .ok (f d r) := by
  obtain ⟨hw, hd, hr⟩ := (encRdRr5_eq_iff o d r _).1 rfl
  have hrow : rowRdRr5 (o, f) ∈ rowsRdRr5 := List.mem_map_of_mem he
  exact decode_of_row (by simp [rowLists]) hrow hw (congrArg₂ f hd hr)

theorem rowsRdRr5_faithful : ∀ row ∈ rowsRdRr5, row.Faithful := by
  rw [rowsRdRr5_eq, List.forall_mem_map]
  intro e he
  exact fun w hw => .of_eq ((encRdRr5_eq_iff e.1 _ _ w).2 ⟨hw, rfl, rfl⟩) (isWordOf_encRdRr5 e he _ _)

-- `Rd5` and `LdSt`

/-- Bits 3:0 of a word of `Rd5` and the instruction they stand for. -/
def codesRd5 : List (BitVec 4 × (Reg → Instr)) := [(0b0000, .com), (0b0001, .neg), (0b0011, .inc), (0b0101, .asr),
  (0b0110, .lsr), (0b1010, .dec)]

/-- Bits 3:0 of a word of `LdSt` whose bit 9 is 0 and the instruction they stand for. -/
def codesLoad : List (BitVec 4 × (Reg → Instr)) := [(0b0101, .lpmZInc), (0b0110, .elpmZ), (0b0111, .elpmZInc),
  (0b1100, .ldX), (0b1101, .ldXInc), (0b1110, .ldDecX), (0b1111, .pop)]

/-- Bits 3:0 of a word of `LdSt` whose bit 9 is 1 and the instruction they stand for. -/
def codesStore : List (BitVec 4 × (Reg → Instr)) := [(0b0001, .stZInc), (0b0010, .stDecZ), (0b0100, .xch),
  (0b0101, .las), (0b0110, .lac), (0b0111, .lat), (0b1111, .push)]

/-- The row of an opcode of `Rd5` or `LdSt`, `a` its bits 15:9. -/
def rowOneReg (a : BitVec 7) (e : BitVec 4 × (Reg → Instr)) : Row :=
  ⟨0xFE0F, a ++ 0#5 ++ e.1, fun w => e.2 (fieldD5 w)⟩

/-- The row of STD Z+q, the one of `Disp6`. -/
def rowStdZ : Row := ⟨0xD208, 0x8200, fun w => .stdZ (fieldQ6 w) (fieldD5 w)⟩

theorem rowsRd5_eq : rowsRd5 = codesRd5.map (rowOneReg 0b1001010) := rfl

theorem rowsLoad_eq : rowsLoad = codesLoad.map (rowOneReg 0b1001000) := rfl

theorem rowsStore_eq : rowsStore = rowStdZ :: codesStore.map (rowOneReg 0b1001001) := rfl

theorem isWordOf_encRd5 : ∀ e ∈ codesRd5, ∀ d, IsWordOf (encOneReg 0b1001010 d e.1) (e.2 d) := by
  simp only [codesRd5, List.forall_mem_cons, List.not_mem_nil, false_implies, implies_true, and_true]
  refine ⟨?_, ?_, ?_, ?_, ?_, ?_⟩ <;> exact fun d => ⟨encRd5_eq_encOneReg d _, rfl, rfl⟩

theorem isWordOf_encLoad : ∀ e ∈ codesLoad, ∀ d, IsWordOf (encOneReg 0b1001000 d e.1) (e.2 d) := by
  simp only [codesLoad, List.forall_mem_cons, List.not_mem_nil, false_implies, implies_true, and_true]
  refine ⟨?_, ?_, ?_, ?_, ?_, ?_, ?_⟩ <;> exact fun d => ⟨encLdSt_eq_encOneReg 0 d _, rfl, rfl⟩

theorem isWordOf_encStore : ∀ e ∈ codesStore, ∀ d, IsWordOf (encOneReg 0b1001001 d e.1) (e.2 d) := by
  simp only [codesStore, List.forall_mem_cons, List.not_mem_nil, false_implies, implies_true, and_true]
  refine ⟨?_, ?_, ?_, ?_, ?_, ?_, ?_⟩ <;> exact fun d => ⟨encLdSt_eq_encOneReg 1 d _, rfl, rfl⟩

theorem decode_encOneReg {rows : List Row} (hrows : rows ∈ rowLists) {a : BitVec 7} {o : BitVec 4} {f : Reg → Instr}
    (hrow : rowOneReg a (o, f) ∈ rows) (d : Reg) : decode (encOneReg a d o) = .ok (f d) := by
  obtain ⟨hw, hd⟩ := (encOneReg_eq_iff a d o _).1 rfl
  exact decode_of_row hrows hrow hw (congrArg f hd)

theorem decode_rd5 {o : BitVec 4} {f : Reg → Instr} (he : (o, f) ∈ codesRd5) (d : Reg) :
    decode (encOneReg 0b1001010 d o) = .ok (f d) := by
  have hrow : rowOneReg 0b1001010 (o, f) ∈ rowsRd5 := List.mem_map_of_mem he
  exact decode_encOneReg (by simp [rowLists]) hrow d

theorem decode_load {o : BitVec 4} {f : Reg → Instr} (he : (o, f) ∈ codesLoad) (d : Reg) :
    decode (encOneReg 0b1001000 d o) = .ok (f d) := by
  have hrow : rowOneReg 0b1001000 (o, f) ∈ rowsLoad := List.mem_map_of_mem he
  exact decode_encOneReg (by simp [rowLists]) hrow d

theorem decode_store {o : BitVec 4} {f : Reg → Instr} (he : (o, f) ∈ codesStore) (d : Reg) :
    decode (encOneReg 0b1001001 d o) = .ok (f d) := by
  have hrow : rowOneReg 0b1001001 (o, f) ∈ rowsStore := .tail _ (List.mem_map_of_mem he)
  exact decode_encOneReg (by simp [rowLists]) hrow d

theorem rowOneReg_faithful {a : BitVec 7} {e : BitVec 4 × (Reg → Instr)}
    (h : ∀ d, IsWordOf (encOneReg a d e.1) (e.2 d)) : (rowOneReg a e).Faithful :=
  fun w hw => .of_eq ((encOneReg_eq_iff a _ e.1 w).2 ⟨hw, rfl⟩) (h _)

theorem decode_encStdZ (q : BitVec 6) (r : Reg) : decode (encStdZ q r) = .ok (.stdZ q r) := by
  obtain ⟨hw, hq, hr⟩ := (encStdZ_eq_iff q r _).1 rfl
  have hrow : rowStdZ ∈ rowsStore := .head _
  exact decode_of_row (by simp [rowLists]) hrow hw (congrArg₂ Instr.stdZ hq hr)

theorem rowStdZ_faithful : rowStdZ.Faithful :=
  fun w hw => ⟨(encStdZ_eq_iff _ _ w).2 ⟨hw, rfl, rfl⟩, rfl, rfl⟩

theorem rowsRd5_faithful : ∀ row ∈ rowsRd5, row.Faithful := by
  rw [rowsRd5_eq, List.forall_mem_map]
  exact fun e he => rowOneReg_faithful (isWordOf_encRd5 e he)

theorem rowsLoad_faithful : ∀ row ∈ rowsLoad, row.Faithful := by
  rw [rowsLoad_eq, List.forall_mem_map]
  exact fun e he => rowOneReg_faithful (isWordOf_encLoad e he)

theorem rowsStore_faithful : ∀ row ∈ rowsStore, row.Faithful := by
  rw [rowsStore_eq, List.forall_mem_cons, List.forall_mem_map]
  exact ⟨rowStdZ_faithful, fun e he => rowOneReg_faithful (isWordOf_encStore e he)⟩

-- `Imm8`

/-- Bits 15:12 of a word of `Imm8` and the instruction they stand for. -/
def codesImm8 : List (BitVec 4 × (Reg → Byte → Instr)) :=
  [(0b0011, .cpi), (0b0110, .ori), (0b0111, .andi), (0b1110, .ldi)]

/-- The row of an opcode of `Imm8`. -/
def rowImm8 (e : BitVec 4 × (Reg → Byte → Instr)) : Row :=
  ⟨0xF000, e.1 ++ 0#12, fun w => e.2 (fieldD4 w) (fieldK8 w)⟩

theorem rowsImm8_eq : rowsImm8 = codesImm8.map rowImm8 := rfl

theorem isWordOf_encImm8 : ∀ e ∈ codesImm8, ∀ d K, d.isHigh = true → IsWordOf (encImm8 e.1 d K) (e.2 d K) := by
  simp only [codesImm8, List.forall_mem_cons, List.not_mem_nil, false_implies, implies_true, and_true]
  refine ⟨?_, ?_, ?_, ?_⟩ <;> exact fun _ _ hd => ⟨rfl, hd, rfl⟩

theorem decode_encImm8 {o : BitVec 4} {f : Reg → Byte → Instr} (he : (o, f) ∈ codesImm8) {d : Reg}
    (hd : d.isHigh = true) (K : Byte) : decode (encImm8 o d K) = .ok (f d K) := by
  obtain ⟨hw, hd, hK⟩ := (encImm8_eq_iff o hd K _).1 rfl
  have hrow : rowImm8 (o, f) ∈ rowsImm8 := List.mem_map_of_mem he
  exact decode_of_row (by simp [rowLists]) hrow hw (congrArg₂ f hd hK)

theorem rowsImm8_faithful : ∀ row ∈ rowsImm8, row.Faithful := by
  rw [rowsImm8_eq, List.forall_mem_map]
  intro e he w hw
  have hd := fieldD4_isHigh w
  exact .of_eq ((encImm8_eq_iff e.1 hd _ w).2 ⟨hw, rfl, rfl⟩) (isWordOf_encImm8 e he _ _ hd)

-- `Mul3`, `Mul4` and `Movw`

/-- Bits 7 and 3 of a word of `Mul3` and the instruction they stand for. -/
def codesMul3 : List ((BitVec 1 × BitVec 1) × (Reg → Reg → Instr)) :=
  [((0, 0), .mulsu), ((0, 1), .fmul), ((1, 0), .fmuls), ((1, 1), .fmulsu)]

/-- The row of an opcode of `Mul3`. -/
def rowMul3 (e : (BitVec 1 × BitVec 1) × (Reg → Reg → Instr)) : Row :=
  ⟨0xFF88, 0b11#8 ++ e.1.1 ++ 0#3 ++ e.1.2 ++ 0#3, fun w => e.2 (fieldD3 w) (fieldR3 w)⟩

/-- The row of MOVW, the one of `Movw`. -/
def rowMovw : Row := ⟨0xFF00, 0x0100, fun w => .movw (fieldDPair w) (fieldRPair w)⟩

/-- The row of MULS, the one of `Mul4`. -/
def rowMuls : Row := ⟨0xFF00, 0x0200, fun w => .muls (fieldD4 w) (fieldR4 w)⟩

theorem rowsMul_eq : rowsMul = rowMovw :: rowMuls :: codesMul3.map rowMul3 := rfl

theorem isWordOf_encMul3 : ∀ e ∈ codesMul3, ∀ d r, (d.isMul3 && r.isMul3) = true →
    IsWordOf (encMul3 e.1.1 e.1.2 d r) (e.2 d r) := by
  simp only [codesMul3, List.forall_mem_cons, List.not_mem_nil, false_implies, implies_true, and_true]
  refine ⟨?_, ?_, ?_, ?_⟩ <;> exact fun _ _ hdr => ⟨rfl, hdr, rfl⟩

theorem decode_encMul3 {f g : BitVec 1} {mk : Reg → Reg → Instr} (he : ((f, g), mk) ∈ codesMul3) {d r : Reg}
    (hwf : (d.isMul3 && r.isMul3) = true) : decode (encMul3 f g d r) = .ok (mk d r) := by
  obtain ⟨hd, hr⟩ := Bool.and_eq_true_iff.1 hwf
  obtain ⟨hw, hd, hr⟩ := (encMul3_eq_iff f g hd hr _).1 rfl
  have hrow : rowMul3 ((f, g), mk) ∈ rowsMul := .tail _ (.tail _ (List.mem_map_of_mem he))
  exact decode_of_row (by simp [rowLists]) hrow hw (congrArg₂ mk hd hr)

theorem decode_encMovw {d r : Reg} (hwf : (d.isEven && r.isEven) = true) :
    decode (encMovw d r) = .ok (.movw d r) := by
  obtain ⟨hd, hr⟩ := Bool.and_eq_true_iff.1 hwf
  obtain ⟨hw, hd, hr⟩ := (encMovw_eq_iff hd hr _).1 rfl
  have hrow : rowMovw ∈ rowsMul := .head _
  exact decode_of_row (by simp [rowLists]) hrow hw (congrArg₂ Instr.movw hd hr)

theorem decode_encMul4 {d r : Reg} (hwf : (d.isHigh && r.isHigh) = true) :
    decode (encMul4 d r) = .ok (.muls d r) := by
  obtain ⟨hd, hr⟩ := Bool.and_eq_true_iff.1 hwf
  obtain ⟨hw, hd, hr⟩ := (encMul4_eq_iff hd hr _).1 rfl
  have hrow : rowMuls ∈ rowsMul := .tail _ (.head _)
  exact decode_of_row (by simp [rowLists]) hrow hw (congrArg₂ Instr.muls hd hr)

theorem rowMovw_faithful : rowMovw.Faithful :=
  fun w hw =>
    have hd := fieldDPair_isEven w
    have hr := fieldRPair_isEven w
    ⟨(encMovw_eq_iff hd hr w).2 ⟨hw, rfl, rfl⟩, Bool.and_eq_true_iff.2 ⟨hd, hr⟩, rfl⟩

theorem rowMuls_faithful : rowMuls.Faithful :=
  fun w hw =>
    have hd := fieldD4_isHigh w
    have hr := fieldR4_isHigh w
    ⟨(encMul4_eq_iff hd hr w).2 ⟨hw, rfl, rfl⟩, Bool.and_eq_true_iff.2 ⟨hd, hr⟩, rfl⟩

theorem rowsMul_faithful : ∀ row ∈ rowsMul, row.Faithful := by
  rw [rowsMul_eq, List.forall_mem_cons, List.forall_mem_cons, List.forall_mem_map]
  refine ⟨rowMovw_faithful, rowMuls_faithful, fun e he w hw => ?_⟩
  have hd := fieldD3_isMul3 w
  have hr := fieldR3_isMul3 w
  exact .of_eq ((encMul3_eq_iff e.1.1 e.1.2 hd hr w).2 ⟨hw, rfl, rfl⟩)
    (isWordOf_encMul3 e he _ _ (Bool.and_eq_true_iff.2 ⟨hd, hr⟩))

-- `Rel12`, `Br7`, `Sflag`, `Io` and `Des`

/-- The row of RJMP, the one of `Rel12`. -/
def rowRjmp : Row := ⟨0xF000, 0xC000, fun w => .rjmp (fieldK12 w)⟩

/-- The row of `Br7` whose bit 10 is `b`. -/
def rowBr7 (b : BitVec 1) (f : Flag → BitVec 7 → Instr) : Row :=
  ⟨0xFC00, 0b11110#5 ++ b ++ 0#10, fun w => f (fieldFlagLow w) (fieldK7 w)⟩

/-- The row of `Sflag` whose bit 7 is `c`. -/
def rowSflag (c : BitVec 1) (f : Flag → Instr) : Row :=
  ⟨0xFF8F, 0b10010100#8 ++ c ++ 0#3 ++ 0b1000#4, fun w => f (fieldFlagHigh w)⟩

/-- The row of `Io` whose bit 11 is `s`. -/
def rowIo (s : BitVec 1) (f : Reg → BitVec 6 → Instr) : Row :=
  ⟨0xF800, 0b1011#4 ++ s ++ 0#11, fun w => f (fieldD5 w) (fieldA6 w)⟩

/-- The row of DES, the one of `Des`. -/
def rowDes : Row := ⟨0xFF0F, 0x940B, fun w => .des (fieldRound w)⟩

theorem rowsOther_eq : rowsOther = [rowRjmp, rowBr7 0 .brbs, rowBr7 1 .brbc, rowSflag 0 .bset, rowSflag 1 .bclr,
    rowIo 0 .ioIn, rowIo 1 fun r A => .ioOut A r, rowDes] := rfl

theorem decode_encRel12 (k : BitVec 12) : decode (0b1100#4 ++ k) = .ok (.rjmp k) := by
  obtain ⟨hw, hk⟩ := (encRel12_eq_iff k _).1 rfl
  have hrow : rowRjmp ∈ rowsOther := by simp [rowsOther_eq]
  exact decode_of_row (by simp [rowLists]) hrow hw (congrArg Instr.rjmp hk)

theorem decode_encBr7 {b : BitVec 1} {mk : Flag → BitVec 7 → Instr} (hrow : rowBr7 b mk ∈ rowsOther) (f : Flag)
    (k : BitVec 7) : decode (encBr7 b k f.index) = .ok (mk f k) := by
  obtain ⟨hw, hf, hk⟩ := (encBr7_eq_iff b k f _).1 rfl
  exact decode_of_row (by simp [rowLists]) hrow hw (congrArg₂ mk hf hk)

theorem decode_encSflag {c : BitVec 1} {mk : Flag → Instr} (hrow : rowSflag c mk ∈ rowsOther) (f : Flag) :
    decode (encSflag c f.index) = .ok (mk f) := by
  obtain ⟨hw, hf⟩ := (encSflag_eq_iff c f _).1 rfl
  exact decode_of_row (by simp [rowLists]) hrow hw (congrArg mk hf)

theorem decode_encIo {s : BitVec 1} {mk : Reg → BitVec 6 → Instr} (hrow : rowIo s mk ∈ rowsOther) (d : Reg)
    (A : BitVec 6) : decode (encIo s A d) = .ok (mk d A) := by
  obtain ⟨hw, hd, hA⟩ := (encIo_eq_iff s A d _).1 rfl
  exact decode_of_row (by simp [rowLists]) hrow hw (congrArg₂ mk hd hA)

theorem decode_encDes (K : BitVec 4) : decode (0b10010100#8 ++ K ++ 0b1011#4) = .ok (.des K) := by
  obtain ⟨hw, hK⟩ := (encDes_eq_iff K _).1 rfl
  have hrow : rowDes ∈ rowsOther := by simp [rowsOther_eq]
  exact decode_of_row (by simp [rowLists]) hrow hw (congrArg Instr.des hK)

theorem rowBr7_faithful {b : BitVec 1} {mk : Flag → BitVec 7 → Instr}
    (h : ∀ f k, IsWordOf (encBr7 b k f.index) (mk f k)) : (rowBr7 b mk).Faithful :=
  fun w hw => .of_eq ((encBr7_eq_iff b _ _ w).2 ⟨hw, rfl, rfl⟩) (h _ _)

theorem rowSflag_faithful {c : BitVec 1} {mk : Flag → Instr} (h : ∀ f, IsWordOf (encSflag c f.index) (mk f)) :
    (rowSflag c mk).Faithful :=
  fun w hw => .of_eq ((encSflag_eq_iff c _ w).2 ⟨hw, rfl⟩) (h _)

theorem rowIo_faithful {s : BitVec 1} {mk : Reg → BitVec 6 → Instr} (h : ∀ d A, IsWordOf (encIo s A d) (mk d A)) :
    (rowIo s mk).Faithful :=
  fun w hw => .of_eq ((encIo_eq_iff s _ _ w).2 ⟨hw, rfl, rfl⟩) (h _ _)

theorem rowRjmp_faithful : rowRjmp.Faithful :=
  fun w hw => ⟨(encRel12_eq_iff _ w).2 ⟨hw, rfl⟩, rfl, rfl⟩

theorem rowDes_faithful : rowDes.Faithful :=
  fun w hw => ⟨(encDes_eq_iff _ w).2 ⟨hw, rfl⟩, rfl, rfl⟩

theorem rowsOther_faithful : ∀ row ∈ rowsOther, row.Faithful := by
  simp only [rowsOther_eq, List.forall_mem_cons, List.not_mem_nil, false_implies, implies_true, and_true]
  exact ⟨rowRjmp_faithful, rowBr7_faithful fun _ _ => ⟨rfl, rfl, rfl⟩, rowBr7_faithful fun _ _ => ⟨rfl, rfl, rfl⟩,
    rowSflag_faithful fun _ => ⟨rfl, rfl, rfl⟩, rowSflag_faithful fun _ => ⟨rfl, rfl, rfl⟩,
    rowIo_faithful fun _ _ => ⟨rfl, rfl, rfl⟩, rowIo_faithful fun _ _ => ⟨rfl, rfl, rfl⟩, rowDes_faithful⟩

-- `Fixed`

/-- The words of `Fixed`. -/
def codesFixed : List (Word × Instr) := [(0x0000, .nop), (0x9409, .ijmp), (0x9588, .sleep), (0x9598, .brk),
  (0x95A8, .wdr), (0x95D8, .elpm), (0x95E8, .spm), (0x95F8, .spmZInc)]

/-- The row of a word of `Fixed`. -/
def rowFixed (e : Word × Instr) : Row := ⟨0xFFFF, e.1, fun _ => e.2⟩

theorem rowsFixed_eq : rowsFixed = codesFixed.map rowFixed := rfl

theorem isWordOf_fixed : ∀ e ∈ codesFixed, IsWordOf e.1 e.2 := by
  simp only [codesFixed, List.forall_mem_cons, List.not_mem_nil, false_implies, implies_true, and_true]
  refine ⟨?_, ?_, ?_, ?_, ?_, ?_, ?_, ?_⟩ <;> exact ⟨rfl, rfl, rfl⟩

theorem decode_encode_fixed {i : Instr} (hi : i ∈ codesFixed.map Prod.snd) : decode (encode i) = .ok i := by
  obtain ⟨e, he, rfl⟩ := List.mem_map.1 hi
  have hrow : rowFixed e ∈ rowsFixed := List.mem_map_of_mem he
  obtain ⟨hword, -, -⟩ := isWordOf_fixed e he
  rw [hword]
  exact decode_of_row (by simp [rowLists]) hrow and_allOnes rfl

theorem rowsFixed_faithful : ∀ row ∈ rowsFixed, row.Faithful := by
  rw [rowsFixed_eq, List.forall_mem_map]
  exact fun e he w hw => .of_eq (hw.symm.trans and_allOnes) (isWordOf_fixed e he)

end Sys2Proof
end

section
/-! SUPPORT. The statements about the decoder and the encoder (EncodeAfterDecode, DecodeAfterEncode,
FiveBitRegisterFields, DisplacementField), put together from the rows. -/

namespace Sys2Proof

open BitVec

-- The round trips (R82, R83, R90, R92)

theorem opcodeRows_faithful : ∀ row ∈ opcodeRows, row.Faithful := by
  simp only [opcodeRows, List.forall_mem_append]
  exact ⟨⟨⟨⟨⟨⟨⟨rowsRdRr5_faithful, rowsMul_faithful⟩, rowsImm8_faithful⟩, rowsRd5_faithful⟩, rowsLoad_faithful⟩,
    rowsStore_faithful⟩, rowsOther_faithful⟩, rowsFixed_faithful⟩

/-- Settles O2: the word comes from the row that admits it, and each row is faithful. -/
theorem encodeAfterDecode : Obligations.EncodeAfterDecode := by
  intro w i h
  obtain ⟨row, hrow, hw, rfl⟩ := exists_row_of_decode h
  exact opcodeRows_faithful row hrow w ((admits_iff row w).1 hw)

/-- The decoder reads a canonical instruction back from its word, by the instruction's format. -/
theorem decode_encode_of_canonical {i : Instr} (hcan : i.canonical = i) (hwf : i.WellFormed = true) :
    decode (encode i) = .ok i := by
  cases i with
  | and | or | eor | mul | add | adc | sub | sbc | mov => exact decode_encRdRr5 (by simp [codesRdRr5]) _ _
  | inc | neg | com | dec | asr | lsr => exact decode_rd5 (by simp [codesRd5]) _
  | ldX | ldXInc | ldDecX | elpmZ | elpmZInc | lpmZInc | pop => exact decode_load (by simp [codesLoad]) _
  | stZInc | stDecZ | push | xch | las | lac | lat => exact decode_store (by simp [codesStore]) _
  | stdZ q r => exact decode_encStdZ q r
  | andi | ori | cpi | ldi => exact decode_encImm8 (by simp [codesImm8]) hwf _
  | fmulsu | mulsu | fmul | fmuls => exact decode_encMul3 (by simp [codesMul3]) hwf
  | muls => exact decode_encMul4 hwf
  | movw => exact decode_encMovw hwf
  | rjmp k => exact decode_encRel12 k
  | brbs | brbc => exact decode_encBr7 (by simp [rowsOther_eq]) _ _
  | bset | bclr => exact decode_encSflag (by simp [rowsOther_eq]) _
  | ioIn d A => exact decode_encIo (mk := .ioIn) (by simp [rowsOther_eq]) d A
  | ioOut A r => exact decode_encIo (mk := fun r A => .ioOut A r) (by simp [rowsOther_eq]) r A
  | des K => exact decode_encDes K
  | nop | ijmp | sleep | brk | wdr | elpm | spm | spmZInc => exact decode_encode_fixed (by simp [codesFixed])
  | sbr | cbr | tst | clr | ser | breq | brne | brcs | brlo | brcc | brsh | brmi | brpl | brlt | brge | stZ | lsl | seh
  | clh | sec | sez | sen | sev | ses | setT | sei | clc => cases hcan

/-- Every spelling of a word is a spelling of its canonical instruction (R92). -/
theorem spelling (i : Instr) : Laws.Spelling.Statement i := by
  cases i with
  | cbr d K => exact Laws.Spelling.cbr d K
  | ser d => exact Laws.Spelling.ser d
  | stZ r => exact Laws.Spelling.stZ r
  | _ => exact fun h => ⟨h, rfl, rfl⟩

/-- Settles O1: another spelling has the word of its canonical instruction, which the decoder reads back. -/
theorem decodeAfterEncode : Obligations.DecodeAfterEncode := by
  intro i hwf
  obtain ⟨hwf', hcan, hword⟩ := spelling i hwf
  rw [hword]
  exact decode_encode_of_canonical hcan hwf'

-- Register fields and the displacement (R85, R87)

/-- Settles O5: a five-bit field is the field of its register, so the words are encodings, which decode. -/
theorem fiveBitRegisterFields : Obligations.FiveBitRegisterFields := by
  intro n m
  have hn : (regOfField5 n).field5 = n := field5_regOfField5 n
  have hm : (regOfField5 m).field5 = m := field5_regOfField5 m
  refine ⟨rfl, fun e he => ?_, fun e he => ?_, fun e he => ?_, fun e he => ?_, fun q => ?_, fun A => ⟨?_, ?_⟩⟩
  · have h := decode_encRdRr5 (o := e.1) (f := e.2) he (regOfField5 n) (regOfField5 m)
    rwa [encRdRr5, hn, hm] at h
  · have h := decode_rd5 (o := e.1) (f := e.2) he (regOfField5 n)
    rwa [encOneReg, hn] at h
  · have h := decode_load (o := e.1) (f := e.2) he (regOfField5 n)
    rwa [encOneReg, hn] at h
  · have h := decode_store (o := e.1) (f := e.2) he (regOfField5 n)
    rwa [encOneReg, hn] at h
  · have h := decode_encStdZ q (regOfField5 n)
    rwa [encStdZ, hn] at h
  · have h := decodeAfterEncode (.ioIn (regOfField5 n) A) rfl
    rwa [encode, encIo, hn] at h
  · have h := decodeAfterEncode (.ioOut A (regOfField5 n)) rfl
    rwa [encode, encIo, hn] at h

theorem fieldQ6_of_decode {w : Word} {q : BitVec 6} {r : Reg} (h : decode w = .ok (.stdZ q r)) : fieldQ6 w = q := by
  obtain ⟨hword, -, -⟩ := encodeAfterDecode w _ h
  obtain ⟨-, hq, -⟩ := (encStdZ_eq_iff q r w).1 hword
  exact hq

theorem fieldQ6_getLsbD (w : Word) (j : Nat) : (fieldQ6 w).getLsbD j =
    if j < 3 then w.getLsbD j
    else if j - 3 < 2 then w.getLsbD (10 + (j - 3)) else decide (j - 5 < 1) && w.getLsbD (13 + (j - 5)) := by
  rw [fieldQ6, getLsbD_append, getLsbD_append]
  simp only [getLsbD_extractLsb', Nat.zero_add, Nat.sub_sub]
  split_ifs with hlow hmid
  · rw [decide_eq_true hlow, Bool.true_and]
  · rw [decide_eq_true hmid, Bool.true_and]
  · rfl

/-- Settles O6: the bits are those of the field the decoder gathers, and the address is a sum of integers. -/
theorem displacementField : Obligations.DisplacementField := by
  refine ⟨fun w q r h => ?_, fun s q => ⟨by omega, rfl⟩⟩
  rw [← fieldQ6_of_decode h]
  simp only [fieldQ6_getLsbD]
  exact ⟨rfl, rfl, rfl, rfl, rfl, rfl⟩

end Sys2Proof
end

section
/-! SUPPORT. The spellings of 30_encoding.md R92 (SpellingsBehaveAlike): the meanings of four are computed in another
way than their canonical instruction's, and are equal to them. -/

namespace Sys2Proof.Machine

/-- Writing a register's own value changes nothing. -/
theorem setReg_reg_self (s : State) (d : Reg) : s.setReg d (s.reg d) = s := by
  simp [State.setReg, State.reg]

/-- TST is AND of a register with itself (R122). -/
theorem execTst_eq_execAnd (d : Reg) (s : State) : execTst d s = execAnd d d s := by
  simp only [execTst, execAnd, writeResult, BitVec.and_self, setReg_reg_self]

/-- CLR is EOR of a register with itself (R123). -/
theorem execClr_eq_execEor (d : Reg) (s : State) : execClr d s = execEor d d s := by
  simp only [execClr, execEor, writeResult, BitVec.xor_self]
  rfl

/-- ST Z,Rr is STD Z+0,Rr, which every device has (R188, R192). -/
theorem execStZ_eq_execStdZ (r : Reg) (s : State) : execStZ r s = execStdZ 0 r s := by
  have hoffers : Device.offersStd s.dev 0 = true := offersStd_iff.2 (.inl rfl)
  rw [execStdZ, hoffers]
  rfl

/-- A byte shifted left one place is the byte added to itself. -/
theorem shiftLeft_eq_add_self (a : Byte) : (a.extractLsb' 0 7 ++ 0#1 : Byte) = a + a := by
  apply BitVec.eq_of_toNat_eq
  rw [append_toNat, extractLsb'_toNat_eq, BitVec.toNat_add]
  simp only [BitVec.toNat_ofNat]
  omega

/-- The flags of LSL are those of the addition of a byte to itself (R221, R258). -/
theorem lslFlags_eq_addFlags (a R : Byte) (sr : Sreg) : lslFlags a R sr = addFlags a a R sr := by
  have hcarry : ∀ j, addCarry a a R j = a.getLsbD j := by
    intro j
    unfold addCarry
    cases a.getLsbD j <;> cases R.getLsbD j <;> rfl
  unfold lslFlags shiftFlags addFlags
  rw [hcarry, hcarry]
  cases a.getLsbD 7 <;> cases R.getLsbD 7 <;> rfl

/-- LSL is ADD of a register to itself (R221). -/
theorem execLsl_eq_execAdd (d : Reg) (s : State) : execLsl d s = execAdd d d s := by
  simp only [execLsl, execAdd, shiftLeft_eq_add_self, lslFlags_eq_addFlags]

/-- Settles O12: four spellings compute what their canonical instruction does in another way; every other has its
meaning as written. -/
theorem spellingsBehaveAlike : Obligations.SpellingsBehaveAlike := by
  intro i s
  cases i with
  | tst d => exact execTst_eq_execAnd d s
  | clr d => exact execClr_eq_execEor d s
  | stZ r => exact execStZ_eq_execStdZ r s
  | lsl d => exact execLsl_eq_execAdd d s
  | _ => rfl

end Sys2Proof.Machine
end

section
/-! SUPPORT. The rules of 40_arith_logic.md (LogicResults, IncDecResults, NegComResults, LogicFlagsRule, DesResult) and
MoveResults. Each way these instructions end has one lemma that gives the result and the frame; beside it stand the
facts about the flags that a result fixes. -/

namespace Sys2Proof.Machine

-- Completion

theorem Gives.imp {i : Instr} {s : State} {P Q : State → Prop} (h : Gives i s P) (hPQ : ∀ t, P t → Q t) :
    Gives i s Q := by
  obtain ⟨t, ht, hP⟩ := h
  exact ⟨t, ht, hPQ t hP⟩

section
variable {i : Instr} {s : State} {d : Reg}

/-- An instruction that writes a result and flags: what it leaves in Rd and in SREG, and its frame (R111 and on). -/
theorem writeResult_gives {R : Byte} {fs : List Flag} {F : Sreg → Sreg} (hF : FlagUpdate fs F)
    (hi : exec i s = writeResult d R (F s.sreg) s) :
    Gives i s fun t => t.reg d = R ∧ t.sreg = F s.sreg ∧ Keeps [d] fs s t ∧ t.pc = s.pc + 1 :=
  ⟨_, hi, reg_setReg_self s d R, rfl,
    ⟨sameRegsBut_setReg s d R, fun f hf => hF.keeps s.sreg f hf, sameOutside_setReg s d R⟩, rfl⟩

/-- An instruction that writes Rd alone. -/
theorem setReg_gives {v : Byte} (hi : exec i s = .next (s.setReg d v).advance) :
    Gives i s fun t => t.reg d = v ∧ Keeps [d] [] s t ∧ t.pc = s.pc + 1 :=
  ⟨_, hi, reg_setReg_self s d v, keeps_setReg s d v, rfl⟩

end

-- The flags that a result fixes (R26)

/-- N, Z and S are as `SignFlags` says wherever `withNVZ` computed them, whatever C and H became. -/
theorem signFlags_of_sreg {R : Byte} {t : State} {sr : Sreg} {v c h : Bool}
    (hsreg : t.sreg = { sr.withNVZ (R.getLsbD 7) v (R == 0) with c := c, h := h }) : SignFlags R t := by
  unfold SignFlags
  rw [hsreg]
  exact ⟨rfl, beq_iff_eq, rfl⟩

/-- `N ^ V` is the sign of the exact result, where V says that it does not fit in a byte: the bound on `exact` holds of
every sum or difference of two bytes and a carry. -/
theorem sign_xor_overflow_iff {R : Byte} {v : Bool} {exact : Int} (hR : R.toInt = exact.bmod 256)
    (hlo : -256 ≤ exact) (hhi : exact < 256) (hv : v = true ↔ exact < -128 ∨ 127 < exact) :
    (R.getLsbD 7 ^^ v) = true ↔ exact < 0 := by
  have hN : R.getLsbD 7 = decide (R.toInt < 0) := (BitVec.msb_eq_getLsbD_last R).symm.trans BitVec.msb_eq_toInt
  have hbmod : exact.bmod 256 < 0 ↔ -128 ≤ exact ∧ exact < 0 ∨ 127 < exact := by
    rw [Int.bmod_def]
    omega
  rw [hN, hR, Bool.xor_iff_ne, Ne, Bool.eq_iff_iff, decide_eq_true_eq, hbmod, hv]
  omega

theorem byte_toInt_eq (a : Byte) : a.toInt = if a.toNat < 128 then (a.toNat : Int) else a.toNat - 256 := by
  have h := BitVec.toInt_eq_toNat_cond a
  omega

theorem byte_getLsbD_iff (a : Byte) (k : Nat) : a.getLsbD k = true ↔ a.toNat / 2 ^ k % 2 = 1 := by
  rw [← BitVec.testBit_toNat, Nat.testBit_eq_decide_div_mod_eq, decide_eq_true_eq]

-- The logic instructions (R110, R111, R114 to R117, R119, R120, R122, R123)

/-- Settles O21: all but Z and the value of S are `logicFlags` as it is written. -/
theorem logicFlagsRule : Obligations.LogicFlagsRule :=
  fun _ _ => ⟨rfl, rfl, beq_iff_eq, rfl, Bool.xor_false _, rfl, rfl, rfl, rfl⟩

/-- How `Obligations.LogicResults` says a logic instruction with the result `R` ends. -/
def EndsLogic (s : State) (ds : List Reg) (R : Byte) (t : State) : Prop :=
  Keeps ds [.n, .v, .z, .s] s t ∧ t.sreg.v = false ∧ SignFlags R t ∧ t.pc = s.pc + 1

section
variable {i : Instr} {s : State} {d : Reg} {R : Byte}

theorem logic_gives (hi : exec i s = writeResult d R (logicFlags R s.sreg) s) :
    Gives i s fun t => t.reg d = R ∧ EndsLogic s [d] R t :=
  (writeResult_gives (logicFlags_update R) hi).imp fun _ ⟨hreg, hsreg, hkeeps, hpc⟩ =>
    ⟨hreg, hkeeps, congrArg Sreg.v hsreg, signFlags_of_sreg hsreg, hpc⟩

/-- The result of a logic instruction bit by bit. -/
theorem logic_gives_bits {op : Nat → Bool} (hi : exec i s = writeResult d R (logicFlags R s.sreg) s)
    (hop : ∀ k < 8, R.getLsbD k = op k) :
    Gives i s fun t => (∀ k < 8, (t.reg d).getLsbD k = op k) ∧ EndsLogic s [d] (t.reg d) t :=
  (logic_gives hi).imp fun _ ⟨hreg, hends⟩ => by
    rw [hreg]
    exact ⟨hop, hends⟩

end

/-- CLR's own flags are those of the result 0 (R123). -/
theorem clr_eq_writeResult (d : Reg) (s : State) : exec (.clr d) s = writeResult d 0 (logicFlags 0 s.sreg) s := rfl

/-- TST ends as AND of a register with itself, and leaves that register too (R122). -/
theorem tst_gives (s : State) (d : Reg) : Gives (.tst d) s (EndsLogic s [] (s.reg d)) := by
  refine ⟨_, rfl, ⟨fun _ _ => rfl, ?_, sameOutside_setReg s d (s.reg d)⟩, rfl, signFlags_of_sreg rfl, rfl⟩
  exact fun f hf => (logicFlags_update (s.reg d)).keeps s.sreg f hf

/-- Settles O22, one clause of the statement per instruction. -/
theorem logicResults : Obligations.LogicResults := by
  intro s d r K
  refine ⟨?and, ?or, ?eor, ?andi, ?ori, ?sbr, ?cbr, ?clr, tst_gives s d⟩
  case and => exact logic_gives_bits rfl fun k _ => BitVec.getLsbD_and
  case or => exact logic_gives_bits rfl fun k _ => BitVec.getLsbD_or
  case eor => exact logic_gives_bits rfl fun k _ => BitVec.getLsbD_xor
  case andi => exact logic_gives_bits rfl fun k _ => BitVec.getLsbD_and
  case ori => exact logic_gives_bits rfl fun k _ => BitVec.getLsbD_or
  case sbr => exact logic_gives_bits rfl fun k _ => BitVec.getLsbD_or
  case cbr => exact logic_gives_bits rfl fun k hk => by simp [hk]
  case clr =>
    refine (logic_gives (clr_eq_writeResult d s)).imp fun t ⟨hreg, hends⟩ => ⟨fun k _ => ?_, hends⟩
    rw [hreg]
    exact BitVec.getLsbD_zero

-- INC and DEC (R112, R121)

theorem incFlags_v_iff (a : Byte) (sr : Sreg) : (incFlags (a + 1) sr).v = true ↔ a.toNat = 0x7F := by
  have hv : (incFlags (a + 1) sr).v = (a + 1 == 0x80) := rfl
  rw [hv, beq_iff_eq]
  bv_omega

theorem decFlags_v_iff (a : Byte) (sr : Sreg) : (decFlags (a - 1) sr).v = true ↔ a.toNat = 0x80 := by
  have hv : (decFlags (a - 1) sr).v = (a - 1 == 0x7F) := rfl
  rw [hv, beq_iff_eq]
  bv_omega

theorem incFlags_s_iff (a : Byte) (sr : Sreg) : (incFlags (a + 1) sr).s = true ↔ a.toInt + 1 < 0 := by
  have ha := byte_toInt_eq a
  have hlt := a.isLt
  have hv := incFlags_v_iff a sr
  exact sign_xor_overflow_iff (BitVec.toInt_add a 1) (by omega) (by omega) (hv.trans (by omega))

theorem decFlags_s_iff (a : Byte) (sr : Sreg) : (decFlags (a - 1) sr).s = true ↔ a.toInt - 1 < 0 := by
  have ha := byte_toInt_eq a
  have hlt := a.isLt
  have hv := decFlags_v_iff a sr
  exact sign_xor_overflow_iff BitVec.toInt_sub (by omega) (by omega) (hv.trans (by omega))

/-- Settles O23: the frame of a written result, and what its V and S say of the exact one. -/
theorem incDecResults : Obligations.IncDecResults := by
  intro s d
  constructor
  · refine (writeResult_gives (incFlags_update (s.reg d + 1)) rfl).imp fun t ⟨hreg, hsreg, hkeeps, hpc⟩ => ?_
    rw [hreg, hsreg]
    exact ⟨BitVec.toNat_add _ _, incFlags_v_iff _ _, incFlags_s_iff _ _, signFlags_of_sreg hsreg, hkeeps, hpc⟩
  · refine (writeResult_gives (decFlags_update (s.reg d - 1)) rfl).imp fun t ⟨hreg, hsreg, hkeeps, hpc⟩ => ?_
    rw [hreg, hsreg]
    have hsub : (s.reg d - 1).toNat = ((s.reg d).toNat + 255) % 256 := by bv_omega
    exact ⟨hsub, decFlags_v_iff _ _, decFlags_s_iff _ _, signFlags_of_sreg hsreg, hkeeps, hpc⟩

-- NEG and COM (R113, R118)

theorem neg_toNat (a : Byte) : (0 - a).toNat = (256 - a.toNat) % 256 := by bv_omega

/-- NEG borrows out of the low four bits exactly where they are not all zero. -/
theorem negFlags_h_iff (a : Byte) (sr : Sreg) : (negFlags a (0 - a) sr).h = true ↔ a.toNat % 16 ≠ 0 := by
  have hh : (negFlags a (0 - a) sr).h = ((0 - a).getLsbD 3 || a.getLsbD 3) := rfl
  have hlt := a.isLt
  rw [hh, Bool.or_eq_true, byte_getLsbD_iff, byte_getLsbD_iff, neg_toNat]
  omega

theorem negFlags_c_iff (a : Byte) (sr : Sreg) : (negFlags a (0 - a) sr).c = true ↔ a.toNat ≠ 0 := by
  have hc : (negFlags a (0 - a) sr).c = (0 - a != 0) := rfl
  rw [hc, bne_iff_ne]
  bv_omega

theorem negFlags_v_iff (a : Byte) (sr : Sreg) : (negFlags a (0 - a) sr).v = true ↔ a.toNat = 0x80 := by
  have hv : (negFlags a (0 - a) sr).v = (0 - a == 0x80) := rfl
  rw [hv, beq_iff_eq]
  bv_omega

/-- Settles O24: as O23, with the borrows of NEG. -/
theorem negComResults : Obligations.NegComResults := by
  intro s d
  constructor
  · refine (writeResult_gives (negFlags_update (s.reg d) (0 - s.reg d)) rfl).imp
      fun t ⟨hreg, hsreg, hkeeps, hpc⟩ => ?_
    rw [hreg, hsreg]
    have hfix : s.reg d = 0x80 → 0 - s.reg d = 0x80 := by bv_omega
    exact ⟨neg_toNat _, negFlags_h_iff _ _, negFlags_c_iff _ _, negFlags_v_iff _ _, hfix, signFlags_of_sreg hsreg,
      hkeeps, hpc⟩
  · refine (writeResult_gives (comFlags_update (~~~(s.reg d))) rfl).imp fun t ⟨hreg, hsreg, hkeeps, hpc⟩ => ?_
    rw [hreg, hsreg]
    exact ⟨BitVec.toNat_not, rfl, rfl, signFlags_of_sreg hsreg, hkeeps, hpc⟩

-- DES (R125)

/-- R15:R0 reads what was last set in it: neighbouring bytes of a value make up the part of it that they span. -/
theorem lowBlock_setLowBlock (s : State) (v : BitVec 128) : (s.setLowBlock v).lowBlock = v := by
  have hbyte (i : Reg) (h : i.val < 16) : (s.setLowBlock v).reg i = v.extractLsb' (8 * i.val) 8 := by
    rw [reg_setLowBlock, if_pos h]
  have happend {n m l : Nat} (h : n = m + 8) :
      v.extractLsb' n l ++ v.extractLsb' m 8 = v.extractLsb' m (l + 8) :=
    BitVec.extractLsb'_append_extractLsb'_eq_extractLsb' h
  simp (disch := decide) only [State.lowBlock, hbyte, happend]
  exact BitVec.extractLsb'_eq_self

theorem keeps_setLowBlock (s : State) (v : BitVec 128) :
    Keeps [0, 1, 2, 3, 4, 5, 6, 7, 8, 9, 10, 11, 12, 13, 14, 15] [] s (s.setLowBlock v).advance := by
  have hlow : ∀ j : Reg, j.val < 16 → j ∈ [(0 : Reg), 1, 2, 3, 4, 5, 6, 7, 8, 9, 10, 11, 12, 13, 14, 15] := by decide
  refine ⟨fun j hj => ?_, fun f _ => ?_, ?_⟩
  · rw [reg_advance, reg_setLowBlock, if_neg (mt (hlow j) hj)]
  · rw [advance_sreg, setLowBlock_sreg]
  · simp [SameOutside, SameSpecial, SameMemories]

theorem offersDes_iff (dev : Device) : Device.offersDes dev = true ↔ dev.hasDes = true ∧ dev.core = .avrxm := by
  simp only [Device.offersDes, Bool.and_eq_true, beq_iff_eq]

theorem setLowBlock_gives {i : Instr} {s : State} {v : BitVec 128} (hi : exec i s = .next (s.setLowBlock v).advance) :
    Gives i s fun t => t.lowBlock = v ∧
      Keeps [0, 1, 2, 3, 4, 5, 6, 7, 8, 9, 10, 11, 12, 13, 14, 15] [] s t ∧ t.pc = s.pc + 1 :=
  ⟨_, hi, lowBlock_setLowBlock s v, keeps_setLowBlock s v, congrArg (· + 1) (setLowBlock_pc s v)⟩

/-- Settles O25: the gate of DES on both sides. -/
theorem desResult : Obligations.DesResult := by
  intro s K
  constructor
  · intro hdes hcore
    have hoffers : Device.offersDes s.dev = true := (offersDes_iff s.dev).2 ⟨hdes, hcore⟩
    exact setLowBlock_gives ((congrArg (requires · _) hoffers).trans (requires_true _))
  · intro h
    have hoffers : Device.offersDes s.dev = false := by
      rcases h with hdes | hcore
      · simp [Device.offersDes, hdes]
      · simp [Device.offersDes, hcore]
    exact requires_of_false hoffers _

-- The moves (R124, R255 to R257)

theorem offersMovw_iff (dev : Device) : Device.offersMovw dev = true ↔ dev.hasMovw = true ∧ dev.core ≠ .avrrc := by
  simp only [Device.offersMovw, Bool.and_eq_true, bne_iff_ne]

/-- The halves of a pair are its registers (R22, R50). -/
theorem pair_lowByte (s : State) (hi lo : Reg) : (s.pair hi lo).extractLsb' 0 8 = s.reg lo :=
  BitVec.extractLsb'_append_eq_right
theorem pair_highByte (s : State) (hi lo : Reg) : (s.pair hi lo).extractLsb' 8 8 = s.reg hi :=
  BitVec.extractLsb'_append_eq_left

theorem keeps_setPair (s : State) (hi lo : Reg) (v : Word) : Keeps [lo, hi] [] s (s.setPair hi lo v).advance := by
  refine ⟨fun j hj => ?_, fun _ _ => rfl, rfl, ⟨rfl, rfl, rfl, rfl, rfl, rfl, rfl⟩, fun _ => rfl, fun _ => rfl⟩
  simp only [List.mem_cons, List.not_mem_nil, or_false, not_or] at hj
  obtain ⟨hlo, hhi⟩ := hj
  rw [reg_advance, reg_setPair, if_neg (Ne.symm hlo), if_neg (Ne.symm hhi)]

/-- MOVW reads both registers of the source pair before it writes one, so the pairs may overlap. -/
theorem movw_gives {s : State} (h : Device.offersMovw s.dev = true) (d r : Reg) : Gives (.movw d r) s fun t =>
    t.reg d = s.reg r ∧ t.reg (d + 1) = s.reg (r + 1) ∧ Keeps [d, d + 1] [] s t ∧ t.pc = s.pc + 1 := by
  have hne : d ≠ d + 1 := by decide +revert
  refine ⟨_, congrArg (requires · _) h, ?_, ?_, keeps_setPair s _ _ _, rfl⟩
  · rw [reg_advance, reg_setPair, if_pos rfl, pair_lowByte]
  · rw [reg_advance, reg_setPair, if_neg hne, if_pos rfl, pair_highByte]

/-- Settles O60: three writes of a register, and one of a pair. -/
theorem moveResults : Obligations.MoveResults := by
  intro s d r K
  refine ⟨setReg_gives rfl, ?_, setReg_gives rfl, fun hmovw hcore => ?_⟩
  · exact (setReg_gives (v := 0xFF) rfl).imp fun t ⟨hreg, hkeeps, hpc⟩ => ⟨congrArg BitVec.toNat hreg, hkeeps, hpc⟩
  · exact movw_gives ((offersMovw_iff s.dev).2 ⟨hmovw, hcore⟩) d r

end Sys2Proof.Machine
end

section
/-! SUPPORT. The rules of 41_multiply.md (FmulsuResult, FmulsuOverflow, MulResults, FmulFmulsResults). The three
products are read as exact integers; the doubled 16 bits are read together with the carry; and all six multiplies end
by `mulWrite`, of which `mul_gives` says what it leaves. The statements are put together from these. -/

namespace Sys2Proof.Machine

-- A word read unsigned and signed

theorem word_toInt_eq (w : Word) : w.toInt = if w.toNat < 32768 then (w.toNat : Int) else w.toNat - 65536 := by
  have h := BitVec.toInt_eq_toNat_cond w
  omega

/-- Bit 15 is set from 0x8000 on. -/
theorem word_getLsbD_15_iff (w : Word) : w.getLsbD 15 = true ↔ 32768 ≤ w.toNat := by
  rw [← BitVec.msb_eq_getLsbD_last w, BitVec.msb_eq_decide, decide_eq_true_eq]

/-- Bit 15 is the sign. -/
theorem word_getLsbD_15_iff_neg (w : Word) : w.getLsbD 15 = true ↔ w.toInt < 0 := by
  rw [← BitVec.msb_eq_getLsbD_last w, BitVec.msb_eq_toInt, decide_eq_true_eq]

theorem byte_getLsbD_7_iff_neg (a : Byte) : a.getLsbD 7 = true ↔ a.toInt < 0 := by
  rw [← BitVec.msb_eq_getLsbD_last a, BitVec.msb_eq_toInt, decide_eq_true_eq]

theorem byte_toInt_bounds (a : Byte) : -128 ≤ a.toInt ∧ a.toInt ≤ 127 := by
  have ha := byte_toInt_eq a
  have hlt := a.isLt
  omega

theorem byte_toInt_eq_zero_iff (a : Byte) : a.toInt = 0 ↔ a = 0 := BitVec.toInt_inj (y := (0 : Byte))
theorem byte_toNat_eq_zero_iff (a : Byte) : a.toNat = 0 ↔ a = 0 := BitVec.toNat_inj (y := (0 : Byte))

-- The exact products and their ranges (R142, R146, R147)

theorem mulUU_le (a b : Byte) : a.toNat * b.toNat ≤ 255 * 255 :=
  Nat.mul_le_mul (Nat.le_of_lt_succ a.isLt) (Nat.le_of_lt_succ b.isLt)

theorem mulSS_bounds (a b : Byte) : -16384 ≤ a.toInt * b.toInt ∧ a.toInt * b.toInt ≤ 16384 :=
  ⟨BitVec.le_toInt_mul_toInt, BitVec.toInt_mul_toInt_le⟩

theorem mulSU_bounds (a b : Byte) : -32640 ≤ a.toInt * (b.toNat : Int) ∧ a.toInt * (b.toNat : Int) ≤ 32385 := by
  have hlt := b.isLt
  obtain ⟨hlo, hhi⟩ := byte_toInt_bounds a
  have hlow := mul_le_mul_of_nonneg_right hlo (Int.natCast_nonneg b.toNat)
  have hhigh := mul_le_mul_of_nonneg_right hhi (Int.natCast_nonneg b.toNat)
  omega

theorem productUU_toNat (a b : Byte) : (productUU a b).toNat = a.toNat * b.toNat := by
  have hle := mulUU_le a b
  exact (BitVec.toNat_ofNat _ 16).trans (Nat.mod_eq_of_lt (by omega))

theorem productSS_toInt (a b : Byte) : (productSS a b).toInt = a.toInt * b.toInt := by
  obtain ⟨hlo, hhi⟩ := mulSS_bounds a b
  exact BitVec.toInt_ofInt_eq_self (by decide) (by omega) (by omega)

theorem productSU_toInt (a b : Byte) : (productSU a b).toInt = a.toInt * (b.toNat : Int) := by
  obtain ⟨hlo, hhi⟩ := mulSU_bounds a b
  exact BitVec.toInt_ofInt_eq_self (by decide) (by omega) (by omega)

-- No product is 0x8000, and a product is zero where a factor is (R142, R143)

/-- A divisor of a power of two that is below `2 ^ (m + 1)` divides `2 ^ m`. -/
theorem dvd_two_pow_of_lt {a n m : Nat} (hdvd : a ∣ 2 ^ n) (hlt : a < 2 ^ (m + 1)) : a ∣ 2 ^ m := by
  obtain ⟨k, -, rfl⟩ := (Nat.dvd_prime_pow Nat.prime_two).1 hdvd
  have hk : k < m + 1 := (Nat.pow_lt_pow_iff_right (by decide)).1 hlt
  exact Nat.pow_dvd_pow 2 (Nat.le_of_lt_succ hk)

/-- Two bytes whose product is `2 ^ 15` would both divide `2 ^ 7`. -/
theorem productUU_ne (a b : Byte) : productUU a b ≠ 0x8000 := by
  intro h
  have hprod : a.toNat * b.toNat = 2 ^ 15 := (productUU_toNat a b).symm.trans (congrArg BitVec.toNat h)
  have ha : a.toNat ∣ 2 ^ 7 := dvd_two_pow_of_lt (hprod ▸ Nat.dvd_mul_right _ _) a.isLt
  have hb : b.toNat ∣ 2 ^ 7 := dvd_two_pow_of_lt (hprod ▸ Nat.dvd_mul_left _ _) b.isLt
  have hdvd : 2 ^ 15 ∣ 2 ^ 7 * 2 ^ 7 := hprod ▸ Nat.mul_dvd_mul ha hb
  exact absurd hdvd (by decide)

theorem productSS_ne (a b : Byte) : productSS a b ≠ 0x8000 := by
  intro h
  have hprod : a.toInt * b.toInt = -32768 := (productSS_toInt a b).symm.trans (congrArg BitVec.toInt h)
  have hbounds := mulSS_bounds a b
  omega

theorem productSU_ne (a b : Byte) : productSU a b ≠ 0x8000 := by
  intro h
  have hprod : a.toInt * (b.toNat : Int) = -32768 := (productSU_toInt a b).symm.trans (congrArg BitVec.toInt h)
  have hbounds := mulSU_bounds a b
  omega

theorem productUU_eq_zero_iff (a b : Byte) : productUU a b = 0 ↔ a = 0 ∨ b = 0 := by
  rw [← BitVec.toNat_inj, productUU_toNat, ← byte_toNat_eq_zero_iff a, ← byte_toNat_eq_zero_iff b]
  exact Nat.mul_eq_zero

theorem productSS_eq_zero_iff (a b : Byte) : productSS a b = 0 ↔ a = 0 ∨ b = 0 := by
  rw [← BitVec.toInt_inj, productSS_toInt, ← byte_toInt_eq_zero_iff a, ← byte_toInt_eq_zero_iff b]
  exact Int.mul_eq_zero

theorem productSU_eq_zero_iff (a b : Byte) : productSU a b = 0 ↔ a = 0 ∨ b = 0 := by
  rw [← BitVec.toInt_inj, productSU_toInt, ← byte_toInt_eq_zero_iff a, ← byte_toNat_eq_zero_iff b,
    ← Int.natCast_eq_zero (n := b.toNat)]
  exact Int.mul_eq_zero

-- Bit 15 of the product (R140, R142)

theorem productUU_getLsbD_15_iff (a b : Byte) :
    (productUU a b).getLsbD 15 = true ↔ 32768 ≤ a.toNat * b.toNat := by
  rw [word_getLsbD_15_iff, productUU_toNat]

theorem productSS_getLsbD_15_iff (a b : Byte) : (productSS a b).getLsbD 15 = true ↔ a.toInt * b.toInt < 0 := by
  rw [word_getLsbD_15_iff_neg, productSS_toInt]

theorem productSU_getLsbD_15_iff (a b : Byte) :
    (productSU a b).getLsbD 15 = true ↔ a.toInt * (b.toNat : Int) < 0 := by
  rw [word_getLsbD_15_iff_neg, productSU_toInt]

/-- A signed by unsigned product is negative where the signed factor is and the other is not zero (R142). -/
theorem mulSU_neg_iff (a b : Byte) : a.toInt * (b.toNat : Int) < 0 ↔ a.getLsbD 7 = true ∧ b ≠ 0 := by
  have hb : b ≠ 0 ↔ 0 < (b.toNat : Int) := by
    rw [Ne, ← byte_toNat_eq_zero_iff]
    omega
  rw [mul_neg_iff, byte_getLsbD_7_iff_neg, hb]
  omega

-- The doubled product and its carry (R140, R144)

theorem mulResult_true_toNat (P : Word) : (mulResult P true).toNat = 2 * P.toNat % 65536 := by
  have h : (mulResult P true).toNat = P.toNat <<< 1 % 65536 := BitVec.toNat_shiftLeft
  rw [h, Nat.shiftLeft_eq, Nat.mul_comm, Nat.pow_one]

/-- The carry and the doubled product make twice the product as an unsigned number of 17 bits. -/
theorem mulResult_true_add_carry (P : Word) :
    (mulResult P true).toNat + (if P.getLsbD 15 then 65536 else 0) = 2 * P.toNat := by
  have hlt := P.isLt
  simp only [mulResult_true_toNat, word_getLsbD_15_iff]
  split <;> omega

/-- They make twice the product as a two's complement number of 17 bits too. -/
theorem mulResult_true_sub_carry (P : Word) :
    ((mulResult P true).toNat : Int) - (if P.getLsbD 15 then 65536 else 0) = 2 * P.toInt := by
  have hlt := P.isLt
  have hP := word_toInt_eq P
  simp only [mulResult_true_toNat, word_getLsbD_15_iff]
  split <;> omega

/-- A two's complement number of 17 bits fits 16 bits exactly where its two upper bits agree; then, and only then, the
lower 16 bits alone read as it. -/
theorem toInt_eq_iff_of_carry {w : Word} {c : Bool} {p : Int} (h : (w.toNat : Int) - (if c then 65536 else 0) = p) :
    (w.toInt = p ↔ w.getLsbD 15 = c) ∧ (w.toInt = p ↔ -32768 ≤ p ∧ p ≤ 32767) := by
  have hlt := w.isLt
  have hw := word_toInt_eq w
  cases c with
  | true =>
    rw [if_pos rfl] at h
    rw [word_getLsbD_15_iff]
    omega
  | false =>
    rw [if_neg Bool.false_ne_true] at h
    rw [← Bool.not_eq_true, word_getLsbD_15_iff]
    omega

/-- A signed product as great as 0x80 times 0x80 has the first factor 0x80: the second is at least -128. -/
theorem eq_min_of_le_mulSS {a b : Byte} (h : 16384 ≤ a.toInt * b.toInt) : a = 0x80 := by
  obtain ⟨halo, hahi⟩ := byte_toInt_bounds a
  obtain ⟨hblo, hbhi⟩ := byte_toInt_bounds b
  rcases le_total 0 a.toInt with hpos | hneg
  · have hle := mul_le_mul_of_nonneg_left hbhi hpos
    omega
  · have hle := mul_le_mul_of_nonpos_left hblo hneg
    have ha : a.toInt = (0x80 : Byte).toInt := (by omega : a.toInt = -128)
    exact BitVec.toInt_inj.1 ha

/-- Twice a signed product leaves 16 bits for the two most negative factors only (R150). -/
theorem mulSS_le_iff (a b : Byte) : 2 * (a.toInt * b.toInt) ≤ 32767 ↔ ¬ (a = 0x80 ∧ b = 0x80) := by
  constructor
  · rintro h ⟨rfl, rfl⟩
    exact absurd h (by decide)
  · intro hne
    by_contra hlt
    have hle : 16384 ≤ a.toInt * b.toInt := by omega
    exact hne ⟨eq_min_of_le_mulSS hle, eq_min_of_le_mulSS (mul_comm a.toInt _ ▸ hle)⟩

-- How a multiply ends (R140)

/-- The doubled product is zero only for the products 0 and 0x8000 (R143). -/
theorem mulFlags_z_iff {P : Word} (hne : P ≠ 0x8000) (frac : Bool) (sr : Sreg) :
    (mulFlags P frac sr).z = true ↔ P = 0 := by
  have hz : (mulFlags P frac sr).z = (mulResult P frac == 0) := rfl
  rw [hz, beq_iff_eq]
  cases frac with
  | false => exact Iff.rfl
  | true =>
    rw [← BitVec.toNat_inj, mulResult_true_toNat]
    bv_omega

/-- The registers a multiply writes are R1 and R0, the flags Z and C. -/
theorem keeps_mulWrite (P : Word) (frac : Bool) (s : State) :
    Keeps [0, 1] [.z, .c] s (mulWrite P frac s).advance := by
  obtain ⟨hregs, -, houtside⟩ := keeps_setPair s 1 0 (mulResult P frac)
  exact ⟨hregs, fun f hf => (mulFlags_update P frac).keeps s.sreg f hf, houtside⟩

/-- What a multiply leaves, for a product `P` that is zero exactly where a factor is, and is not 0x8000. -/
theorem mul_gives {i : Instr} {s : State} {d r : Reg} {P : Word} {frac : Bool} (hoffers : Device.offersMul s.dev = true)
    (hi : exec i s = requires (Device.offersMul s.dev) (.next (mulWrite P frac s).advance))
    (hne : P ≠ 0x8000) (hzero : P = 0 ↔ s.reg d = 0 ∨ s.reg r = 0) :
    Gives i s fun t => t.pair 1 0 = mulResult P frac ∧ t.sreg.c = P.getLsbD 15 ∧
      (t.sreg.z = true ↔ s.reg d = 0 ∨ s.reg r = 0) ∧ Keeps [0, 1] [.z, .c] s t ∧ t.pc = s.pc + 1 :=
  ⟨_, hi.trans (congrArg (requires · _) hoffers), pair_setPair (by decide) (s.setSreg _) _, rfl,
    (mulFlags_z_iff hne frac s.sreg).trans hzero, keeps_mulWrite P frac s, rfl⟩

/-- Settles O27: the product doubled with its carry, and the sign of a signed by unsigned product. -/
theorem fmulsuResult : Obligations.FmulsuResult := by
  intro s d r hoffers
  refine (mul_gives hoffers rfl (productSU_ne _ _) (productSU_eq_zero_iff _ _)).imp fun t ⟨hpair, hc, hends⟩ => ?_
  rw [hpair, hc]
  refine ⟨?_, (productSU_getLsbD_15_iff _ _).trans (mulSU_neg_iff _ _), hends⟩
  rw [mulResult_true_sub_carry, productSU_toInt]

/-- Settles O28, from the 17 bits of O27. -/
theorem fmulsuOverflow : Obligations.FmulsuOverflow := by
  intro s t d r h
  obtain ⟨t', ht', h17, -⟩ := fmulsuResult s d r (requires_eq_next h).1
  cases h.symm.trans ht'
  have hbit : (t.pair 1 0).getLsbD 15 = (t.reg 1).getLsbD 7 := by
    rw [← pair_highByte t 1 0, BitVec.getLsbD_extractLsb']
    rfl
  rw [← hbit]
  exact toInt_eq_iff_of_carry h17

/-- Settles O29: the product is written as it is. -/
theorem mulResults : Obligations.MulResults := by
  intro s d r hoffers
  refine ⟨?mul, ?muls, ?mulsu⟩
  case mul =>
    refine (mul_gives hoffers rfl (productUU_ne _ _) (productUU_eq_zero_iff _ _)).imp fun t ⟨hpair, hc, hends⟩ => ?_
    rw [hpair, hc]
    exact ⟨productUU_toNat _ _, productUU_getLsbD_15_iff _ _, hends⟩
  case muls =>
    refine (mul_gives hoffers rfl (productSS_ne _ _) (productSS_eq_zero_iff _ _)).imp fun t ⟨hpair, hc, hends⟩ => ?_
    rw [hpair, hc]
    exact ⟨productSS_toInt _ _, productSS_getLsbD_15_iff _ _, hends⟩
  case mulsu =>
    refine (mul_gives hoffers rfl (productSU_ne _ _) (productSU_eq_zero_iff _ _)).imp fun t ⟨hpair, hc, hends⟩ => ?_
    rw [hpair, hc]
    exact ⟨productSU_toInt _ _, productSU_getLsbD_15_iff _ _, hends⟩

/-- Settles O30: the product doubled with its carry, read unsigned and signed. -/
theorem fmulFmulsResults : Obligations.FmulFmulsResults := by
  intro s d r hoffers
  constructor
  · refine (mul_gives hoffers rfl (productUU_ne _ _) (productUU_eq_zero_iff _ _)).imp fun t ⟨hpair, hc, hends⟩ => ?_
    rw [hpair, hc]
    exact ⟨by rw [mulResult_true_add_carry, productUU_toNat], hends⟩
  · refine (mul_gives hoffers rfl (productSS_ne _ _) (productSS_eq_zero_iff _ _)).imp fun t ⟨hpair, hc, hends⟩ => ?_
    rw [hpair, hc]
    have h17 := mulResult_true_sub_carry (productSS (s.reg d) (s.reg r))
    rw [productSS_toInt] at h17
    have hlo := (mulSS_bounds (s.reg d) (s.reg r)).1
    obtain ⟨-, hfits⟩ := toInt_eq_iff_of_carry h17
    exact ⟨h17, hfits.trans ((and_iff_right (by omega)).trans (mulSS_le_iff _ _)), hends⟩

end Sys2Proof.Machine
end

section
/-! SUPPORT. The rules of 42_branch.md (NextPc, JumpResults, FlagBranchResults, NamedBranchResults) and what a step does
around an instruction (StepRunsDecoded, StepStops). No operation over the state moves pc, so an instruction that ends by
advancing ends one word further; every conditional branch is one `branchIf`; each outcome of a fetch has one lemma. -/

namespace Sys2Proof.Machine

-- Instructions that are not branches (R175)

section
variable {s t u : State}

/-- An instruction that ends by advancing from a state with the old pc. -/
theorem advance_pc_eq (h : (.next u.advance : Res State) = .next t) (hu : u.pc = s.pc) : t.pc = s.pc + 1 := by
  cases h
  exact congrArg (· + 1) hu

theorem memRead_pc {a : Nat} {v : Byte} (h : s.memRead a = .next (v, t)) : t.pc = s.pc := by
  rcases memRead_eq_next h with ⟨rfl, -⟩ | ⟨rfl, -⟩ | ⟨rfl, -⟩ | ⟨loc, -, hio⟩
  · rfl
  · rfl
  · rfl
  · obtain ⟨p, -, -, -, rfl⟩ := ioRead_eq_next hio
    exact logRead_pc s loc p

theorem memWrite_pc {a : Nat} {v : Byte} (h : s.memWrite a v = .next t) : t.pc = s.pc := by
  rcases memWrite_eq_next h with ⟨j, -, rfl⟩ | ⟨-, rfl⟩ | ⟨loc, -, hio⟩
  · exact setReg_pc s j v
  · exact sramWrite_pc s a v
  · obtain ⟨-, hpc, -⟩ := ioWrite_leaves hio
    exact hpc

theorem loadByte_pc {d : Reg} {a : Nat} {upd : State → State}
    (h : loadByte d a upd s = .next t) (hupd : ∀ w, (upd w).pc = w.pc) : t.pc = s.pc + 1 := by
  obtain ⟨v, s1, hr, rfl⟩ := loadByte_eq_next h
  have hs1 : s1.pc = s.pc := memRead_pc hr
  exact congrArg (· + 1) ((hupd _).trans hs1)

theorem storeByte_pc {r : Reg} {a : Nat} {upd : State → State}
    (h : storeByte r a upd s = .next t) (hupd : ∀ w, (upd w).pc = w.pc) : t.pc = s.pc + 1 := by
  obtain ⟨s1, hw, rfl⟩ := storeByte_eq_next h
  exact congrArg (· + 1) ((hupd _).trans (memWrite_pc hw))

theorem loadProgByte_pc {d : Reg} {a : Nat} {upd : State → State}
    (h : loadProgByte d a upd s = .next t) (hupd : ∀ w, (upd w).pc = w.pc) : t.pc = s.pc + 1 := by
  obtain ⟨v, -, rfl⟩ := loadProgByte_eq_next h
  exact congrArg (· + 1) (hupd _)

theorem storeProgWord_pc {upd : State → State}
    (h : storeProgWord upd s = .next t) (hupd : ∀ w, (upd w).pc = w.pc) : t.pc = s.pc + 1 := by
  obtain ⟨s1, hw, rfl⟩ := storeProgWord_eq_next h
  obtain ⟨-, rfl⟩ := progWrite_eq_next hw
  exact congrArg (· + 1) (hupd _)

theorem readModifyWrite_pc {f : Byte → Byte → Byte} {d : Reg} (h : readModifyWrite f d s = .next t) :
    t.pc = s.pc + 1 := by
  obtain ⟨-, m, -, rfl⟩ := readModifyWrite_eq_next h
  rfl

theorem execIn_pc {d : Reg} {A : BitVec 6} (h : execIn d A s = .next t) : t.pc = s.pc + 1 := by
  obtain ⟨⟨v, s1⟩, hr, h⟩ := andThen_eq_next h
  obtain ⟨p, -, -, -, rfl⟩ := ioRead_eq_next hr
  exact advance_pc_eq h rfl

theorem execOut_pc {A : BitVec 6} {r : Reg} (h : execOut A r s = .next t) : t.pc = s.pc + 1 := by
  obtain ⟨s1, hw, h⟩ := andThen_eq_next h
  obtain ⟨-, hpc, -⟩ := ioWrite_leaves hw
  exact advance_pc_eq h hpc

theorem execPush_pc {r : Reg} (h : execPush r s = .next t) : t.pc = s.pc + 1 := by
  unfold execPush at h
  split at h
  · cases h
  · exact storeByte_pc h fun _ => rfl

theorem execPop_pc {d : Reg} (h : execPop d s = .next t) : t.pc = s.pc + 1 := by
  rw [execPop_eq_loadByte] at h
  exact loadByte_pc h fun _ => rfl

end

/-- Settles O18: each instruction that is not a branch advances from a state its operations left with the old pc. -/
theorem nextPc : Obligations.NextPc := by
  intro i s t h hi
  cases i with
  | rjmp | ijmp | brbs | brbc | breq | brne | brcs | brlo | brcc | brsh | brmi | brpl | brlt | brge => cases hi
  | brk | sleep => cases h
  | and | inc | neg | andi | or | ori | eor | com | dec | sbr | cbr | tst | clr | ser | asr | lsr | lsl | bset | bclr
  | seh | clh | sec | sez | sen | sev | ses | setT | sei | clc | add | adc | sub | sbc | cpi | ldi | mov | nop | wdr =>
    exact advance_pc_eq h rfl
  | movw | fmulsu | mul | muls | mulsu | fmul | fmuls => exact advance_pc_eq (requires_eq_next h).2 rfl
  | des => exact advance_pc_eq (requires_eq_next h).2 (setLowBlock_pc s _)
  | ldX => exact loadByte_pc h fun _ => rfl
  | ldXInc | ldDecX => exact loadByte_pc (unlessConflict_eq_next h).2 fun _ => rfl
  | stZ => exact storeByte_pc h fun _ => rfl
  | stdZ => exact storeByte_pc (requires_eq_next h).2 fun _ => rfl
  | stZInc | stDecZ => exact storeByte_pc (unlessConflict_eq_next h).2 fun _ => rfl
  | elpm | elpmZ => exact loadProgByte_pc (requires_eq_next h).2 fun _ => rfl
  | elpmZInc | lpmZInc => exact loadProgByte_pc (unlessConflict_eq_next (requires_eq_next h).2).2 fun _ => rfl
  | spm | spmZInc => exact storeProgWord_pc (requires_eq_next h).2 fun _ => rfl
  | ioIn => exact execIn_pc h
  | ioOut => exact execOut_pc h
  | push => exact execPush_pc h
  | pop => exact execPop_pc h
  | xch | las | lac | lat => exact readModifyWrite_pc (requires_eq_next h).2

-- Jumps (R160, R161)

theorem keeps_withPc (s : State) (p : Nat) : Keeps [] [] s { s with pc := p } :=
  ⟨fun _ _ => rfl, fun _ _ => rfl, rfl, ⟨rfl, rfl, rfl, rfl, rfl, rfl, rfl⟩, fun _ => rfl, fun _ => rfl⟩

section
variable {i : Instr} {s : State} {k : Int}

theorem jumpRel_of_neg (h : (s.pc : Int) + k + 1 < 0) : jumpRel k s = .fault .pcOutOfRange := if_pos h

/-- A jump whose target is not negative goes there. -/
theorem jumpRel_gives (hi : exec i s = jumpRel k s) (h : 0 ≤ (s.pc : Int) + k + 1) :
    Gives i s fun t => (t.pc : Int) = (s.pc : Int) + k + 1 ∧ Keeps [] [] s t :=
  ⟨_, hi.trans (if_neg (Int.not_lt.2 h)), Int.toNat_of_nonneg h, keeps_withPc s _⟩

end

/-- Settles O31: RJMP is `jumpRel`, and IJMP reads the pair Z as a number. -/
theorem jumpResults : Obligations.JumpResults :=
  fun s _ => ⟨jumpRel_gives rfl, jumpRel_of_neg, _, rfl, pair_toNat s 31 30, keeps_withPc s _⟩

-- Conditional branches (R162 to R173)

/-- The three outcomes of a branch by `k` that is taken where the flag `f` is `b`, as the statements have them: taken,
out of range, not taken. -/
def BranchesOn (f : Flag) (b : Bool) (k : BitVec 7) (i : Instr) (s : State) : Prop :=
  (s.sreg.get f = b → 0 ≤ (s.pc : Int) + k.toInt + 1 → Gives i s (fun t =>
    (t.pc : Int) = (s.pc : Int) + k.toInt + 1 ∧ Keeps [] [] s t)) ∧
  (s.sreg.get f = b → (s.pc : Int) + k.toInt + 1 < 0 → exec i s = .fault .pcOutOfRange) ∧
  (s.sreg.get f ≠ b → Gives i s (fun t => t.pc = s.pc + 1 ∧ Keeps [] [] s t))

section
variable {i j : Instr} {s : State} {f : Flag} {b : Bool} {k : BitVec 7}

theorem branchIf_branchesOn {taken : Bool} (hi : exec i s = branchIf taken k s)
    (htaken : taken = true ↔ s.sreg.get f = b) : BranchesOn f b k i s := by
  cases taken with
  | true =>
    have hflag := htaken.1 rfl
    exact ⟨fun _ => jumpRel_gives hi, fun _ hk => hi.trans (jumpRel_of_neg hk), fun hne => absurd hflag hne⟩
  | false =>
    have hflag : s.sreg.get f ≠ b := fun e => Bool.false_ne_true (htaken.2 e)
    exact ⟨fun e => absurd e hflag, fun e => absurd e hflag, fun _ => ⟨_, hi, rfl, keeps_withPc s _⟩⟩

/-- Two instructions of one behaviour branch alike. -/
theorem BranchesOn.of_exec_eq (hij : exec i s = exec j s) (h : BranchesOn f b k j s) : BranchesOn f b k i s := by
  unfold BranchesOn Gives
  rw [hij]
  exact h

end

/-- Settles O32: BRBS is taken by the flag as it stands, BRBC by its negation. -/
theorem flagBranchResults : Obligations.FlagBranchResults := by
  intro s f k b
  cases b with
  | true => exact branchIf_branchesOn rfl Iff.rfl
  | false => exact branchIf_branchesOn rfl (Iff.of_eq (Bool.not_eq_true' _))

/-- Each named branch is another spelling of BRBS or BRBC on its flag (R164 to R173). -/
theorem canonical_of_named_branch (k : BitVec 7) :
    ∀ e ∈ [(Instr.breq k, Flag.z, true), (.brne k, .z, false), (.brcs k, .c, true), (.brlo k, .c, true),
      (.brcc k, .c, false), (.brsh k, .c, false), (.brmi k, .n, true), (.brpl k, .n, false),
      (.brlt k, .s, true), (.brge k, .s, false)],
      e.1.canonical = if e.2.2 then Instr.brbs e.2.1 k else Instr.brbc e.2.1 k := by
  simp only [List.forall_mem_cons, List.not_mem_nil, false_implies, implies_true, and_true]
  exact ⟨rfl, rfl, rfl, rfl, rfl, rfl, rfl, rfl, rfl, rfl⟩

/-- Settles O33: a named branch behaves as its canonical instruction (O12), which is O32's. -/
theorem namedBranchResults : Obligations.NamedBranchResults := by
  intro s k i f b hi
  have hcanonical := canonical_of_named_branch k _ hi
  exact BranchesOn.of_exec_eq ((spellingsBehaveAlike i s).trans (congrArg (exec · s) hcanonical))
    (flagBranchResults s f k b)

-- The step (R20, R91, R176, R336)

section
variable {s : State} {w : Word} {i : Instr}

theorem fetch_of_endPc (h : s.dev.endPc = some s.pc) : fetch s = .refused .runEnded := if_pos h

theorem fetch_of_flashend_lt (hend : s.dev.endPc ≠ some s.pc) (h : s.dev.flashend < s.pc) :
    fetch s = .fault .fetchOutOfRange :=
  (if_neg hend).trans (if_pos h)

theorem fetch_of_none (hend : s.dev.endPc ≠ some s.pc) (hle : s.pc ≤ s.dev.flashend)
    (h : Memory.read s.prog s.pc = none) : fetch s = .fault .unwrittenRead := by
  simp only [fetch, if_neg hend, State.progWord, if_neg (Nat.not_lt.2 hle), h]

theorem fetch_of_some (hend : s.dev.endPc ≠ some s.pc) (hle : s.pc ≤ s.dev.flashend)
    (h : Memory.read s.prog s.pc = some w) : fetch s = .next w := by
  simp only [fetch, if_neg hend, State.progWord, if_neg (Nat.not_lt.2 hle), h]

theorem decodeFetched_of_ok (h : decode w = .ok i) : decodeFetched w = .next i := by
  simp only [decodeFetched, h]

theorem decodeFetched_of_error (h : decode w = .error .unknownWord) : decodeFetched w = .refused .unknownWord := by
  simp only [decodeFetched, h]

/-- A word that no canonical row admits decodes to nothing (R91). -/
theorem decode_of_no_row (h : ∀ row ∈ opcodeRows, w &&& row.mask ≠ row.pat) : decode w = .error .unknownWord := by
  have hnone : opcodeRows.find? (fun row => row.admits w) = none :=
    List.find?_eq_none.2 fun row hrow hadmits => h row hrow ((admits_iff row w).1 hadmits)
  simp only [decode, hnone]

end

/-- Settles O7, the fetch and the decoder both answering. -/
theorem stepRunsDecoded : Obligations.StepRunsDecoded := by
  intro s w i hend hle hread hdecode
  rw [step, fetch_of_some hend hle hread, andThen_next, decodeFetched_of_ok hdecode, andThen_next]

/-- Settles O8: three stops of the fetch, and one of the decoder. -/
theorem stepStops : Obligations.StepStops := by
  refine fun s => ⟨fun hend => ?_, fun hend hlt => ?_, fun hend hle hread => ?_, fun w hend hle hread hrows => ?_⟩
  · rw [step, fetch_of_endPc hend, andThen_refused]
  · rw [step, fetch_of_flashend_lt hend hlt, andThen_fault]
  · rw [step, fetch_of_none hend hle hread, andThen_fault]
  · have hdecode := decode_of_no_row hrows
    refine ⟨hdecode, ?_⟩
    rw [step, fetch_of_some hend hle hread, andThen_next, decodeFetched_of_error hdecode, andThen_refused]

end Sys2Proof.Machine
end

section
/-! SUPPORT. The rules of 43_data_transfer.md (LoadResults, StoreToSram, InOutResults, PushResult, PopResult,
PushPopInverse, ReadModifyWriteResults, LpmResult, AccessStops, PointerConflictRefused). A read of data space leaves all
but the record of device accesses, and a store to SRAM writes one byte; each form is that access and the update of its
pointer, or of SP. -/

namespace Sys2Proof.Machine

-- The forms as their access and their update (R182, R184 to R191, R196)

section
variable {s : State} {d : Reg}

theorem exec_ldXInc_eq_loadByte (hd : isHalfOfX d = false) (s : State) :
    exec (.ldXInc d) s = loadByte d (addrX s) (·.setWideX (ptrInc s.dev (addrX s))) s :=
  congrArg (unlessConflict · _) hd

theorem exec_ldDecX_eq_loadByte (hd : isHalfOfX d = false) (s : State) :
    exec (.ldDecX d) s = loadByte d (addrDecX s) (·.setWideX (addrDecX s)) s :=
  congrArg (unlessConflict · _) hd

theorem exec_stdZ_eq_storeByte {q : BitVec 6} {r : Reg} (hq : Device.offersStd s.dev q = true) :
    exec (.stdZ q r) s = storeByte r (addrZq s q) id s :=
  congrArg (requires · _) hq

theorem offersLpm_iff {dev : Device} : Device.offersLpm dev = true ↔ dev.core ≠ .avrrc := bne_iff_ne

theorem offersElpm_iff {dev : Device} : Device.offersElpm dev = true ↔ dev.hasRamp = true ∧ dev.core ≠ .avrrc := by
  simp only [Device.offersElpm, Bool.and_eq_true, bne_iff_ne]

/-- On a core that has LPM, what remains is the conflict of R183. -/
theorem exec_lpmZInc_of_core (hcore : s.dev.core ≠ .avrrc) : exec (.lpmZInc d) s =
    unlessConflict (isHalfOfZ d) (loadProgByte d s.ptrZ.toNat (·.setPtrZ (s.ptrZ + 1)) s) :=
  congrArg (requires · _) (offersLpm_iff.2 hcore)

theorem exec_lpmZInc_eq_loadProgByte (hcore : s.dev.core ≠ .avrrc) (hd : isHalfOfZ d = false) :
    exec (.lpmZInc d) s = loadProgByte d s.ptrZ.toNat (·.setPtrZ (s.ptrZ + 1)) s :=
  (exec_lpmZInc_of_core hcore).trans (congrArg (unlessConflict · _) hd)

end

-- A form that updates the pointer it transfers a half of (R183)

theorem unlessConflict_of_true {conflict : Bool} (h : conflict = true) (x : Res State) :
    unlessConflict conflict x = .refused .pointerRegisterConflict := by
  rw [h, unlessConflict_true]

theorem isHalfOfX_iff {d : Reg} : isHalfOfX d = true ↔ d = 26 ∨ d = 27 := by
  simp only [isHalfOfX, Bool.or_eq_true, beq_iff_eq]

theorem isHalfOfZ_iff {d : Reg} : isHalfOfZ d = true ↔ d = 30 ∨ d = 31 := by
  simp only [isHalfOfZ, Bool.or_eq_true, beq_iff_eq]

/-- Settles O38: the conflict is met first, but for LPM and ELPM, which the device must have. -/
theorem pointerConflictRefused : Obligations.PointerConflictRefused := by
  refine fun s d => ⟨fun hd => ?_, fun hd => ?_⟩
  · have hx := isHalfOfX_iff.2 hd
    exact ⟨unlessConflict_of_true hx _, unlessConflict_of_true hx _⟩
  · have hz := isHalfOfZ_iff.2 hd
    refine ⟨unlessConflict_of_true hz _, unlessConflict_of_true hz _, fun hcore => ?_, fun hcore hramp => ?_⟩
    · exact (exec_lpmZInc_of_core hcore).trans (unlessConflict_of_true hz _)
    · have hoffers := offersElpm_iff.2 ⟨hramp, hcore⟩
      exact (congrArg (requires · _) hoffers).trans (unlessConflict_of_true hz _)

-- An access that stops (R13, R54)

/-- Where the access `x` stops, `y` is stopped by the same fault or refusal. -/
structure StopsAs {α : Type} (x : Res α) (y : Res State) : Prop where
  fault : ∀ {e : Fault}, x = .fault e → y = .fault e
  refused : ∀ {f : Refusal}, x = .refused f → y = .refused f

theorem stopsAs_andThen {α : Type} (x : Res α) (k : α → Res State) : StopsAs x (andThen x k) where
  fault h := by rw [h, andThen_fault]
  refused h := by rw [h, andThen_refused]

section
variable {i : Instr} {s : State} {d r : Reg} {a : Nat} {upd : State → State}

theorem load_stopsAs (hi : exec i s = loadByte d a upd s) : StopsAs (s.memRead a) (exec i s) :=
  hi ▸ stopsAs_andThen _ _

theorem store_stopsAs (hi : exec i s = storeByte r a upd s) : StopsAs (s.memWrite a (s.reg r)) (exec i s) :=
  hi ▸ stopsAs_andThen _ _

theorem loadProg_stopsAs (hi : exec i s = loadProgByte d a upd s) : StopsAs (s.progByte a) (exec i s) :=
  hi ▸ stopsAs_andThen _ _

end

/-- Settles O37: every form is one load or one store of a byte. -/
theorem accessStops : Obligations.AccessStops := by
  intro s d q e f
  have ldX : StopsAs _ (exec (.ldX d) s) := load_stopsAs rfl
  have ldXInc (hd : isHalfOfX d = false) := load_stopsAs (exec_ldXInc_eq_loadByte hd s)
  have ldDecX (hd : isHalfOfX d = false) := load_stopsAs (exec_ldDecX_eq_loadByte hd s)
  have pop : StopsAs _ (exec (.pop d) s) := load_stopsAs (execPop_eq_loadByte d s)
  have stZ : StopsAs _ (exec (.stZ d) s) := store_stopsAs rfl
  have stZInc (hd : isHalfOfZ d = false) := store_stopsAs (exec_stZInc_eq_storeByte hd s)
  have stDecZ (hd : isHalfOfZ d = false) := store_stopsAs (exec_stDecZ_eq_storeByte hd s)
  have stdZ (hq : Device.offersStd s.dev q = true) := store_stopsAs (exec_stdZ_eq_storeByte (r := d) hq)
  have push (hsp : s.sp ≠ 0) : StopsAs _ (exec (.push d) s) := store_stopsAs (execPush_of_sp_ne hsp d)
  exact ⟨fun h => ⟨ldX.fault h, fun hd => (ldXInc hd).fault h⟩,
    fun h => ⟨ldX.refused h, fun hd => (ldXInc hd).refused h⟩,
    fun hd => (ldDecX hd).fault, fun hd => (ldDecX hd).refused, pop.fault, pop.refused,
    fun h => ⟨stZ.fault h, fun hd => (stZInc hd).fault h⟩,
    fun h => ⟨stZ.refused h, fun hd => (stZInc hd).refused h⟩,
    fun hd => (stDecZ hd).fault, fun hd => (stDecZ hd).refused, fun hq => (stdZ hq).fault,
    fun hq => (stdZ hq).refused, fun hsp => (push hsp).fault, fun hsp => (push hsp).refused⟩

-- Loads, POP and IN (R184 to R186, R201, R206)

/-- `s1` is `s` but for the record of the accesses to devices (R57; log entry 11). -/
def OnlyLogs (s s1 : State) : Prop := ∃ log, s1 = { s with ioLog := log }

section
variable {s s1 : State} {i : Instr} {d : Reg} {v : Byte} {a b loc : Nat}

theorem ioRead_onlyLogs (h : s.ioRead loc = .next (v, s1)) : OnlyLogs s s1 := by
  obtain ⟨p, -, -, -, rfl⟩ := ioRead_eq_next h
  exact ⟨_, rfl⟩

theorem memRead_onlyLogs (h : s.memRead a = .next (v, s1)) : OnlyLogs s s1 := by
  rcases memRead_eq_next h with ⟨rfl, -⟩ | ⟨rfl, -⟩ | ⟨rfl, -⟩ | ⟨loc, -, hio⟩
  · exact ⟨_, rfl⟩
  · exact ⟨_, rfl⟩
  · exact ⟨_, rfl⟩
  · exact ioRead_onlyLogs hio

theorem loadByte_of_next (h : s.memRead a = .next (v, s1)) (upd : State → State) :
    loadByte d a upd s = .next (upd (s1.setReg d v)).advance := by
  rw [loadByte, h, andThen_next]

/-- How the statements say a read ends that left `s1`: beyond the registers `ds`, pc alone is other than in `s1`. -/
def EndsRead (s s1 : State) (ds : List Reg) (t : State) : Prop :=
  SameRegsBut ds s t ∧ SameFlagsBut [] s t ∧ SameOutside s1 t ∧ t.pc = s.pc + 1

/-- A read that moves no pointer. -/
theorem read_gives (hlog : OnlyLogs s s1) (hi : exec i s = .next (s1.setReg d v).advance) :
    Gives i s fun t => t.reg d = v ∧ EndsRead s s1 [d] t := by
  obtain ⟨log, rfl⟩ := hlog
  exact ⟨_, hi, reg_setReg_self _ d v, sameRegsBut_setReg _ d v, fun _ _ => rfl, sameOutside_setReg _ d v, rfl⟩

theorem ptrX_of_sameRegsBut {t : State} (h : SameRegsBut [d] s t) (hd : isHalfOfX d = false) : t.ptrX = s.ptrX := by
  have hsame : ∀ j, isHalfOfX j = true → t.reg j = s.reg j := by
    refine fun j hj => h j fun hm => ?_
    rw [List.mem_singleton.1 hm, hd] at hj
    exact Bool.false_ne_true hj
  exact congrArg₂ (· ++ ·) (hsame 27 rfl) (hsame 26 rfl)

theorem movesX_setWideX {u : State} {k : Int} (hdev : u.dev = s.dev) (hrampx : u.rampx = s.rampx)
    (hlt : b < Device.ptrSpan s.dev)
    (hb : (b : Int) = ((addrX s : Int) + k) % (if s.dev.hasRamp then 16777216 else 65536)) :
    MovesX s (u.setWideX b).advance k := by
  have hspan : b < Device.ptrSpan u.dev := by rwa [hdev]
  have haddr : addrX (u.setWideX b).advance = b := addrX_setWideX hspan
  refine ⟨by rw [haddr, hb], fun hramp => ?_⟩
  rw [advance_rampx, setWideX_rampx, hdev, rampOf_of_not_hasRamp hramp, hrampx]

theorem not_isHalfOfX {j : Reg} (h : j ∉ [(26 : Reg), 27]) : isHalfOfX j = false := by
  simp only [List.mem_cons, List.not_mem_nil, or_false] at h
  exact Bool.eq_false_iff.2 (isHalfOfX_iff.not.2 h)

theorem sameRegsBut_setReg_setWideX (s : State) (d : Reg) (v : Byte) (b : Nat) :
    SameRegsBut [d, 26, 27] s ((s.setReg d v).setWideX b) := by
  intro j hj
  obtain ⟨hd, hx⟩ := not_or.1 (List.mem_cons.not.1 hj)
  rw [reg_setWideX (not_isHalfOfX hx), reg_setReg_other (Ne.symm hd)]

/-- A load that moves X by `k` afterwards. -/
theorem loadWideX_gives {k : Int} (hr : s.memRead a = .next (v, s1)) (hd : isHalfOfX d = false)
    (hi : exec i s = loadByte d a (·.setWideX b) s) (hlt : b < Device.ptrSpan s.dev)
    (hb : (b : Int) = ((addrX s : Int) + k) % (if s.dev.hasRamp then 16777216 else 65536)) :
    Gives i s fun t => t.reg d = v ∧ MovesX s t k ∧ EndsRead s s1 [d, 26, 27] (t.setRampx s.rampx) := by
  have ht := hi.trans (loadByte_of_next hr _)
  obtain ⟨log, rfl⟩ := memRead_onlyLogs hr
  refine ⟨_, ht, ?_, movesX_setWideX rfl rfl hlt hb, sameRegsBut_setReg_setWideX _ d v b, fun _ _ => rfl,
    ⟨rfl, ⟨rfl, rfl, rfl, rfl, rfl, rfl, rfl⟩, fun _ => rfl, fun _ => rfl⟩, rfl⟩
  rw [reg_advance, reg_setWideX hd, reg_setReg_self]

end

/-- Settles O36, one clause of the statement per form. -/
theorem loadResults : Obligations.LoadResults := by
  refine fun s s1 d v => ⟨fun hr => ?_, fun hd hr => ?_, fun hd hr => ?_⟩
  · refine (read_gives (i := .ldX d) (memRead_onlyLogs hr) (loadByte_of_next hr id)).imp ?_
    rintro t ⟨hreg, hregs, hrest⟩
    exact ⟨hreg, ptrX_of_sameRegsBut hregs, hregs, hrest⟩
  · exact loadWideX_gives hr hd (exec_ldXInc_eq_loadByte hd s) (ptrInc_lt _ _) (ptrInc_cast _ _)
  · exact loadWideX_gives hr hd (exec_ldDecX_eq_loadByte hd s) (ptrDec_lt _ _) (ptrDec_cast _ _)

/-- Settles O45: POP is a load that then sets SP. -/
theorem popResult : Obligations.PopResult := by
  intro s s1 d v hr
  have ht := (execPop_eq_loadByte d s).trans (loadByte_of_next hr _)
  obtain ⟨log, rfl⟩ := memRead_onlyLogs hr
  exact ⟨_, ht, reg_setReg_self _ d v, BitVec.toNat_ofNat _ _, sameRegsBut_setReg _ d v, fun _ _ => rfl,
    ⟨rfl, rfl, rfl, rfl, rfl, rfl, rfl⟩, sameMemories_of_eq rfl rfl, rfl⟩

theorem execIn_of_next {s s1 : State} {d : Reg} {A : BitVec 6} {v : Byte} (h : s.ioRead A.toNat = .next (v, s1)) :
    execIn d A s = .next (s1.setReg d v).advance := by
  rw [execIn, h, andThen_next]

theorem execOut_of_next {s s1 : State} {r : Reg} {A : BitVec 6} (h : s.ioWrite A.toNat (s.reg r) = .next s1) :
    execOut A r s = .next s1.advance := by
  rw [execOut, h, andThen_next]

/-- Settles O43: IN ends as any other read, and OUT advances from what the write left. -/
theorem inOutResults : Obligations.InOutResults := by
  refine fun s s1 d A v f => ⟨fun hr => ?_, fun hw => ?_, (stopsAs_andThen _ _).refused,
    (stopsAs_andThen _ _).refused⟩
  · exact read_gives (ioRead_onlyLogs hr) (execIn_of_next hr)
  · obtain ⟨hreg, hpc, -, -⟩ := ioWrite_leaves hw
    exact ⟨_, execOut_of_next hw, fun j _ => hreg j, fun _ _ => rfl,
      ⟨rfl, ⟨rfl, rfl, rfl, rfl, rfl, rfl, rfl⟩, fun _ => rfl, fun _ => rfl⟩, congrArg (· + 1) hpc⟩

-- Stores and PUSH to SRAM (R188 to R191, R205)

/-- How the statements say an instruction ends that wrote the SRAM byte at `a`: beyond that byte and the registers `ds`,
pc alone has changed. -/
def EndsSram (s : State) (a : Nat) (ds : List Reg) (t : State) : Prop :=
  SameSramBut a s t ∧ SameRegsBut ds s t ∧ SameFlagsBut [] s t ∧ t.sp = s.sp ∧ SameSpecial s t ∧
    (∀ w, Memory.read t.prog w = Memory.read s.prog w) ∧ t.pc = s.pc + 1

section
variable {s : State} {i : Instr} {r : Reg} {a b : Nat}

theorem storeByte_of_sram (hc : Device.classify s.dev a = .sram) (r : Reg) (upd : State → State) :
    storeByte r a upd s = .next (upd (s.sramWrite a (s.reg r))).advance := by
  simp only [storeByte, State.memWrite, hc, andThen_next]

theorem sameSramBut_of_write {t : State} {v : Byte} (h : t.mem = Memory.write s.mem a v) : SameSramBut a s t := by
  intro c hc
  rw [h, memory_read_write_other hc]

/-- A store that moves no pointer, to SRAM. -/
theorem store_gives_sram (hc : Device.classify s.dev a = .sram) (hi : exec i s = storeByte r a id s) :
    Gives i s fun t => Memory.read t.mem a = some (s.reg r) ∧ EndsSram s a [] t :=
  ⟨_, hi.trans (storeByte_of_sram hc r id), memory_read_write_self _ a _, sameSramBut_of_write rfl, fun _ _ => rfl,
    fun _ _ => rfl, rfl, ⟨rfl, rfl, rfl, rfl, rfl, rfl, rfl⟩, fun _ => rfl, rfl⟩

/-- A store that moves Z by `k` afterwards, to SRAM. -/
theorem storeWideZ_gives_sram {k : Int} (hc : Device.classify s.dev a = .sram)
    (hi : exec i s = storeByte r a (·.setWideZ b) s) (hlt : b < Device.ptrSpan s.dev)
    (hb : (b : Int) = ((addrZ s : Int) + k) % (if s.dev.hasRamp then 16777216 else 65536)) :
    Gives i s fun t => MovesZ s t k ∧ Memory.read (t.setRampz s.rampz).mem a = some (s.reg r) ∧
      EndsSram s a [30, 31] (t.setRampz s.rampz) := by
  refine ⟨_, hi.trans (storeByte_of_sram hc r _), movesZ_setWideZ rfl rfl hlt hb, memory_read_write_self _ a _,
    sameSramBut_of_write rfl, fun j hj => ?_, fun _ _ => rfl, rfl, ⟨rfl, rfl, rfl, rfl, rfl, rfl, rfl⟩, fun _ => rfl, rfl⟩
  rw [reg_setRampz, reg_advance, reg_setWideZ (not_isHalfOfZ hj), reg_sramWrite]

end

/-- Settles O39, one clause of the statement per form. -/
theorem storeToSram : Obligations.StoreToSram := by
  refine fun s q r => ⟨fun hc => ?_, fun hr hc => ?_, fun hr hc => ?_, fun hq hc => ?_⟩
  · exact store_gives_sram hc rfl
  · exact storeWideZ_gives_sram hc (exec_stZInc_eq_storeByte hr s) (ptrInc_lt _ _) (ptrInc_cast _ _)
  · exact storeWideZ_gives_sram hc (exec_stDecZ_eq_storeByte hr s) (ptrDec_lt _ _) (ptrDec_cast _ _)
  · exact store_gives_sram hc (exec_stdZ_eq_storeByte (offersStd_iff.2 hq))

/-- Settles O44: PUSH is a store that then sets SP. -/
theorem pushResult : Obligations.PushResult := by
  refine fun s r => ⟨fun hsp => if_pos hsp, fun hsp hc => ?_⟩
  have hpred : (s.sp - 1).toNat + 1 = s.sp.toNat := by bv_omega
  exact ⟨_, (execPush_of_sp_ne hsp r).trans (storeByte_of_sram hc r _), memory_read_write_self _ _ _, hpred,
    sameSramBut_of_write rfl, fun _ _ => rfl, fun _ _ => rfl, ⟨rfl, rfl, rfl, rfl, rfl, rfl, rfl⟩, fun _ => rfl, rfl⟩

/-- Settles O46, from O44 and O45: POP reads back the byte PUSH stored, at the address SP held. -/
theorem pushPopInverse : Obligations.PushPopInverse := by
  intro s r d hsp hc
  refine ((pushResult s r).2 hsp hc).imp ?_
  rintro t ⟨hbyte, hspt, -, hregs, hflags, ⟨-, -, -, -, -, -, hdev⟩, -, hpc⟩
  have hread : t.memRead (t.sp.toNat + 1) = .next (s.reg r, t) := by
    rw [hspt, memRead_of_sram (hdev ▸ hc), sramRead_of_some hbyte, andThen_next]
  refine (popResult t t d (s.reg r) hread).imp ?_
  rintro u ⟨hreg, hspu, hregs', hflags', -, -, hpc'⟩
  have hrestored : u.sp.toNat = s.sp.toNat := by
    rw [hspu, hspt, Nat.mod_eq_of_lt s.sp.isLt]
  refine ⟨hreg, BitVec.eq_of_toNat_eq hrestored, fun j hj => ?_, fun g hg => ?_, by rw [hpc', hpc]⟩
  · exact (hregs' j hj).trans (hregs j List.not_mem_nil)
  · exact (hflags' g hg).trans (hflags g hg)

-- XCH, LAS, LAC, LAT (R207 to R210)

section
variable {s : State} {i : Instr} {d : Reg} {f : Byte → Byte → Byte} {op : Bool → Bool → Bool}

theorem isXm_iff {dev : Device} : Device.isXm dev = true ↔ dev.core = .avrxm := beq_iff_eq

/-- The four are one `readModifyWrite` each, whose function on bytes is `op` bit by bit. -/
theorem exec_eq_readModifyWrite (s : State)
    (h : (i, op) ∈ [(Instr.xch d, fun x _ => x), (.las d, fun x y => x || y), (.lac d, fun x y => !x && y),
      (.lat d, fun x y => x ^^ y)]) :
    ∃ f : Byte → Byte → Byte, exec i s = requires (Device.isXm s.dev) (readModifyWrite f d s) ∧
      ∀ x m : Byte, ∀ k < 8, (f x m).getLsbD k = op (x.getLsbD k) (m.getLsbD k) := by
  simp only [List.mem_cons, Prod.mk.injEq, List.not_mem_nil, or_false] at h
  rcases h with ⟨rfl, rfl⟩ | ⟨rfl, rfl⟩ | ⟨rfl, rfl⟩ | ⟨rfl, rfl⟩
  · exact ⟨_, rfl, fun _ _ _ _ => rfl⟩
  · exact ⟨_, rfl, fun _ _ _ _ => BitVec.getLsbD_or⟩
  · exact ⟨_, rfl, fun _ _ k hk => by simp [hk]⟩
  · exact ⟨_, rfl, fun _ _ _ _ => BitVec.getLsbD_xor⟩

theorem readModifyWrite_of_sram (hc : Device.classify s.dev (addrZ s) = .sram) :
    readModifyWrite f d s = andThen (s.sramRead (addrZ s)) fun m =>
      .next ((s.sramWrite (addrZ s) (f (s.reg d) m)).setReg d m).advance := by
  simp only [readModifyWrite, hc]

theorem readModifyWrite_of_io {loc : Nat} (hc : Device.classify s.dev (addrZ s) = .io loc) :
    readModifyWrite f d s = .refused .ioAccess := by
  simp only [readModifyWrite, hc]

theorem readModifyWrite_of_ne (hsram : Device.classify s.dev (addrZ s) ≠ .sram)
    (hio : ∀ loc, Device.classify s.dev (addrZ s) ≠ .io loc) : readModifyWrite f d s = .fault .dataOutOfRange := by
  unfold readModifyWrite
  cases hc : Device.classify s.dev (addrZ s) with
  | sram => exact absurd hc hsram
  | io loc => exact absurd hc (hio loc)
  | reg | progByte | unmapped => rfl

theorem readModifyWrite_gives {m : Byte} (hc : Device.classify s.dev (addrZ s) = .sram)
    (hm : Memory.read s.mem (addrZ s) = some m) (hi : exec i s = readModifyWrite f d s) :
    Gives i s fun t => t.reg d = m ∧ Memory.read t.mem (addrZ s) = some (f (s.reg d) m) ∧ EndsSram s (addrZ s) [d] t := by
  have ht : readModifyWrite f d s = .next ((s.sramWrite (addrZ s) (f (s.reg d) m)).setReg d m).advance := by
    rw [readModifyWrite_of_sram hc, sramRead_of_some hm, andThen_next]
  exact ⟨_, hi.trans ht, reg_setReg_self _ d m, memory_read_write_self _ _ _, sameSramBut_of_write rfl,
    sameRegsBut_setReg _ d m, fun _ _ => rfl, rfl, ⟨rfl, rfl, rfl, rfl, rfl, rfl, rfl⟩, fun _ => rfl, rfl⟩

end

/-- Settles O47, by the core and then by the class of the address. -/
theorem readModifyWriteResults : Obligations.ReadModifyWriteResults := by
  intro s d i op hmem
  obtain ⟨f, hexec, hf⟩ := exec_eq_readModifyWrite s hmem
  have hi : s.dev.core = .avrxm → exec i s = readModifyWrite f d s :=
    fun hcore => hexec.trans (congrArg (requires · _) (isXm_iff.2 hcore))
  refine ⟨fun m hcore hc hm => ?_, fun hcore => ?_, fun hcore hc hm => ?_, fun loc hcore hc => ?_,
    fun hcore hsram hio => ?_⟩
  · exact (readModifyWrite_gives hc hm (hi hcore)).imp fun t ⟨hreg, hbyte, hends⟩ =>
      ⟨hreg, ⟨_, hbyte, hf (s.reg d) m⟩, hends⟩
  · exact hexec.trans (requires_of_false (Bool.eq_false_iff.2 (isXm_iff.not.2 hcore)) _)
  · rw [hi hcore, readModifyWrite_of_sram hc, sramRead_of_none hm, andThen_fault]
  · exact (hi hcore).trans (readModifyWrite_of_io hc)
  · exact (hi hcore).trans (readModifyWrite_of_ne hsram hio)

-- LPM (R196, R52)

theorem byteOfWord_toNat (w : Word) (a : Nat) :
    (byteOfWord w a).toNat = if a % 2 = 0 then w.toNat % 256 else w.toNat / 256 := by
  unfold byteOfWord
  split
  · exact lowByte_toNat w
  · exact highByte_toNat w

/-- A register is written and then Z alone moves: nothing but the three registers changes. -/
theorem keeps_setReg_setPtrZ (s : State) (d : Reg) (v : Byte) (z : Word) :
    Keeps [d, 30, 31] [] s ((s.setReg d v).setPtrZ z).advance := by
  refine ⟨fun j hj => ?_, fun _ _ => rfl, rfl, ⟨rfl, rfl, rfl, rfl, rfl, rfl, rfl⟩, fun _ => rfl, fun _ => rfl⟩
  obtain ⟨hd, hz⟩ := not_or.1 (List.mem_cons.not.1 hj)
  rw [reg_advance, reg_setPtrZ (not_isHalfOfZ hz), reg_setReg_other (Ne.symm hd)]

theorem loadProgByte_of_next {s : State} {a : Nat} {v : Byte} (h : s.progByte a = .next v) (d : Reg)
    (upd : State → State) : loadProgByte d a upd s = .next (upd (s.setReg d v)).advance := by
  rw [loadProgByte, h, andThen_next]

/-- Settles O48, by what the program byte at Z answers. -/
theorem lpmResult : Obligations.LpmResult := by
  intro s d hcore hd
  have hi := exec_lpmZInc_eq_loadProgByte hcore hd
  refine ⟨fun w hle hw => ?_, fun hlt => ?_, fun hle hw => ?_⟩
  · refine ⟨_, hi.trans (loadProgByte_of_next (progByte_of_some hle hw) d _), ?_, ?_, keeps_setReg_setPtrZ s d _ _, rfl⟩
    · rw [reg_advance, reg_setPtrZ hd, reg_setReg_self, byteOfWord_toNat]
    · exact (congrArg BitVec.toNat (ptrZ_setPtrZ _ (s.ptrZ + 1))).trans (BitVec.toNat_add _ _)
  · exact (loadProg_stopsAs hi).fault (progByte_of_flashend_lt hlt)
  · exact (loadProg_stopsAs hi).fault (progByte_of_none hle hw)

end Sys2Proof.Machine
end

section
/-! SUPPORT. The rules of 44_shift_bit.md (ShiftResults, FlagInstructionResults). The three shifts end alike, which
`shift_gives` says once for the bit shifted out; each result is read as a number. A named flag instruction is another
spelling of BSET or BCLR. -/

namespace Sys2Proof.Machine

-- The shifts (R220, R221, R224)

/-- A frame still holds where it speaks of fewer flags. -/
theorem Keeps.mono_flags {ds : List Reg} {fs gs : List Flag} {s t : State} (h : Keeps ds fs s t) (hsub : fs ⊆ gs) :
    Keeps ds gs s t := by
  obtain ⟨hregs, hflags, houtside⟩ := h
  exact ⟨hregs, fun f hf => hflags f (mt (@hsub f) hf), houtside⟩

/-- ASR keeps the sign bit, so the signed value is halved and rounded down (R220). -/
theorem asrByte_toInt (a : Byte) : (a.extractLsb' 7 1 ++ a.extractLsb' 1 7 : Byte).toInt = a.toInt.fdiv 2 := by
  have hlt := a.isLt
  rw [Int.fdiv_eq_ediv_of_nonneg _ (by decide), byte_toInt_eq, byte_toInt_eq, append_toNat, extractLsb'_toNat_eq,
    extractLsb'_toNat_eq]
  omega

theorem lsrByte_toNat (a : Byte) : (0#1 ++ a.extractLsb' 1 7 : Byte).toNat = a.toNat / 2 := by
  have hlt := a.isLt
  rw [append_toNat, extractLsb'_toNat_eq, BitVec.toNat_ofNat]
  omega

theorem lslByte_toNat (a : Byte) : (a.extractLsb' 0 7 ++ 0#1 : Byte).toNat = 2 * a.toNat % 256 := by
  rw [shiftLeft_eq_add_self, BitVec.toNat_add, Nat.two_mul]

/-- LSR shifts a zero into the sign bit (R224). -/
theorem lsrByte_getLsbD_7 (a : Byte) : (0#1 ++ a.extractLsb' 1 7 : Byte).getLsbD 7 = false := by
  rw [BitVec.getLsbD_append]
  rfl

/-- The bits shifted out, as the statement reads them off the number. -/
theorem byte_getLsbD_0_iff (a : Byte) : a.getLsbD 0 = true ↔ a.toNat % 2 = 1 := by
  rw [byte_getLsbD_iff, pow_zero, Nat.div_one]

theorem byte_getLsbD_7_iff_le (a : Byte) : a.getLsbD 7 = true ↔ 128 ≤ a.toNat := by
  have hlt := a.isLt
  rw [byte_getLsbD_iff]
  omega

/-- How `Obligations.ShiftResults` says a shift of Rd ends: `out` is the bit shifted out, `fs` are the flags written. -/
def EndsShift (s : State) (d : Reg) (fs : List Flag) (out : Prop) (t : State) : Prop :=
  (t.sreg.c = true ↔ out) ∧ t.sreg.v = (t.sreg.n ^^ t.sreg.c) ∧ t.sreg.s = t.sreg.c ∧ SignFlags (t.reg d) t ∧
    Keeps [d] fs s t ∧ t.pc = s.pc + 1

/-- A shift with the result `R`: since V is `N ^ C`, S is C. The value of H is free, for LSL writes it. -/
theorem shift_gives {i : Instr} {s : State} {d : Reg} {R : Byte} {out h : Bool} {p : Prop} {fs gs : List Flag}
    {F : Sreg → Sreg} (hF : FlagUpdate fs F) (hi : exec i s = writeResult d R (F s.sreg) s) (hsub : fs ⊆ gs)
    (hflags : F s.sreg = { shiftFlags out R s.sreg with h := h }) (hout : out = true ↔ p) :
    Gives i s fun t => t.reg d = R ∧ t.sreg = F s.sreg ∧ EndsShift s d gs p t := by
  refine (writeResult_gives hF hi).imp fun t ⟨hreg, hsreg, hkeeps, hpc⟩ => ⟨hreg, hsreg, ?_⟩
  have ht : t.sreg = { shiftFlags out R s.sreg with h := h } := hsreg.trans hflags
  have hsign : SignFlags (t.reg d) t := hreg ▸ signFlags_of_sreg ht
  have hc : t.sreg.c = out := congrArg Sreg.c ht
  have hv : t.sreg.v = (t.sreg.n ^^ t.sreg.c) := by rw [ht]; rfl
  have hs : t.sreg.s = t.sreg.c := by rw [ht]; exact Bool.bne_self_left _ _
  exact ⟨hc ▸ hout, hv, hs, hsign, hkeeps.mono_flags hsub, hpc⟩

/-- Settles O51: the common end of the shifts, with each result as a number. -/
theorem shiftResults : Obligations.ShiftResults := by
  intro s d
  refine ⟨?asr, ?lsr, ?lsl⟩
  case asr =>
    refine (shift_gives (i := .asr d) (shiftFlags_update _ _) rfl (by decide) rfl (byte_getLsbD_0_iff (s.reg d))).imp
      fun t ⟨hreg, _, hends⟩ => ⟨?_, hends⟩
    rw [hreg, asrByte_toInt]
  case lsr =>
    refine (shift_gives (i := .lsr d) (shiftFlags_update _ _) rfl (by decide) rfl (byte_getLsbD_0_iff (s.reg d))).imp
      fun t ⟨hreg, hsreg, hends⟩ => ⟨?_, ?_, hends⟩
    · rw [hreg, lsrByte_toNat]
    · rw [hsreg]
      exact lsrByte_getLsbD_7 _
  case lsl =>
    refine (shift_gives (i := .lsl d) (lslFlags_update _ _) rfl (by decide) rfl (byte_getLsbD_7_iff_le (s.reg d))).imp
      fun t ⟨hreg, hsreg, hends⟩ => ⟨?_, congrArg Sreg.h hsreg, hends⟩
    rw [hreg, lslByte_toNat]

-- BSET, BCLR and the named flag instructions (R225 to R236)

/-- An instruction that writes one flag alone. -/
theorem setFlag_gives {i : Instr} {s : State} {f : Flag} {b : Bool}
    (hi : exec i s = .next (s.setSreg (s.sreg.set f b)).advance) :
    Gives i s fun t => t.sreg.get f = b ∧ Keeps [] [f] s t ∧ t.pc = s.pc + 1 :=
  ⟨_, hi, sreg_get_set_self s.sreg f b, ⟨fun _ _ => rfl, (set_update f b).keeps s.sreg, rfl,
    ⟨rfl, rfl, rfl, rfl, rfl, rfl, rfl⟩, fun _ => rfl, fun _ => rfl⟩, rfl⟩

/-- Each named flag instruction is another spelling of BSET or BCLR on its flag (R225, R226, R229 to R236). -/
theorem canonical_of_flag_instruction (g : Flag) :
    ∀ e ∈ [(Instr.bset g, g, true), (.bclr g, g, false), (.seh, Flag.h, true), (.clh, .h, false),
      (.sec, .c, true), (.sez, .z, true), (.sen, .n, true), (.sev, .v, true), (.ses, .s, true), (.setT, .t, true),
      (.sei, .i, true), (.clc, .c, false)],
      e.1.canonical = if e.2.2 then Instr.bset e.2.1 else Instr.bclr e.2.1 := by
  simp only [List.forall_mem_cons, List.not_mem_nil, false_implies, implies_true, and_true]
  exact ⟨rfl, rfl, rfl, rfl, rfl, rfl, rfl, rfl, rfl, rfl, rfl, rfl⟩

/-- BSET and BCLR write the flag they name (R227, R228). -/
theorem exec_bset_or_bclr (s : State) (f : Flag) (b : Bool) :
    exec (if b then Instr.bset f else Instr.bclr f) s = .next (s.setSreg (s.sreg.set f b)).advance := by
  cases b <;> rfl

/-- Settles O52: a flag instruction behaves as its canonical instruction (O12), which writes one flag. -/
theorem flagInstructionResults : Obligations.FlagInstructionResults := by
  intro s g i f b hi
  have hcanonical := canonical_of_flag_instruction g _ hi
  exact setFlag_gives (calc
    exec i s = exec i.canonical s := spellingsBehaveAlike i s
    _ = exec (if b then Instr.bset f else Instr.bclr f) s := congrArg (exec · s) hcanonical
    _ = .next (s.setSreg (s.sreg.set f b)).advance := exec_bset_or_bclr s f b)

end Sys2Proof.Machine
end

section
/-! SUPPORT. The rules of 45_mcu_control.md (NopWdrResults, BreakSleepRefused). NOP and WDR only advance pc; BREAK and
SLEEP have no meaning in the model. -/

namespace Sys2Proof.Machine

/-- An instruction that only advances pc. -/
theorem advance_gives {i : Instr} {s : State} (hi : exec i s = .next s.advance) :
    Gives i s fun t => Keeps [] [] s t ∧ t.pc = s.pc + 1 :=
  ⟨s.advance, hi, keeps_withPc s (s.pc + 1), advance_pc s⟩

/-- Settles O53: neither instruction does more than advance pc. -/
theorem nopWdrResults : Obligations.NopWdrResults := by
  intro s
  have hnop : exec .nop s = .next s.advance := rfl
  have hwdr : exec .wdr s = .next s.advance := rfl
  exact ⟨advance_gives hnop, advance_gives hwdr⟩

/-- Settles O54: the meaning of either instruction is the refusal, which looks at no part of the state. -/
theorem breakSleepRefused : Obligations.BreakSleepRefused := by
  intro s
  have hbreak : exec .brk s = .refused .unavailableInstruction := rfl
  have hsleep : exec .sleep s = .refused .unavailableInstruction := rfl
  exact ⟨hbreak, hsleep⟩

end Sys2Proof.Machine
end

section
/-! SUPPORT. The rules of 46_supplement.md on additions and subtractions (AddResults, SubCpiResults, SbcResult,
SixteenBitArithmetic). The carry formula of R258 is the carry of the binary addition, for every bit. A subtraction is
the addition of the complement, with the carry in and the carries out inverted, so what R259 says follows from the facts
about R258. The 16-bit statement is put together from those about the single instructions. -/

namespace Sys2Proof.Machine

-- Sums with a carry and differences with a borrow (R250 to R254)

/-- A carry as a byte, 0 or 1. -/
def carryByte (c : Bool) : Byte := (BitVec.ofBool c).setWidth 8

/-- The result of ADD, where `c` is false, and of ADC. -/
def sumWithCarry (a b : Byte) (c : Bool) : Byte := a + b + carryByte c

/-- The result of SUB and CPI, where `c` is false, and of SBC. -/
def differenceWithBorrow (a b : Byte) (c : Bool) : Byte := a - b - carryByte c

theorem carryByte_toNat (c : Bool) : (carryByte c).toNat = c.toNat := by cases c <;> rfl

theorem carryByte_toInt (c : Bool) : (carryByte c).toInt = c.toNat := by cases c <;> rfl

theorem carryIn_eq_carryByte (s : State) : carryIn s = carryByte s.sreg.c := by
  unfold carryIn
  cases s.sreg.c <;> rfl

theorem sumWithCarry_false (a b : Byte) : sumWithCarry a b false = a + b := BitVec.add_zero _

theorem differenceWithBorrow_false (a b : Byte) : differenceWithBorrow a b false = a - b := BitVec.sub_zero _

theorem sumWithCarry_toNat (a b : Byte) (c : Bool) :
    (sumWithCarry a b c).toNat = (a.toNat + b.toNat + c.toNat) % 256 := by
  rw [sumWithCarry, BitVec.toNat_add, BitVec.toNat_add, carryByte_toNat, Nat.mod_add_mod]

theorem sumWithCarry_toInt (a b : Byte) (c : Bool) :
    (sumWithCarry a b c).toInt = (a.toInt + b.toInt + c.toNat).bmod 256 := by
  rw [sumWithCarry, BitVec.toInt_add, BitVec.toInt_add, carryByte_toInt]
  exact Int.bmod_add_bmod

theorem differenceWithBorrow_toNat (a b : Byte) (c : Bool) :
    (differenceWithBorrow a b c).toNat = ((a.toNat : Int) + 256 - b.toNat + (256 - c.toNat)) % 256 := by
  have hc := carryByte_toNat c
  have hle := c.toNat_le
  unfold differenceWithBorrow
  bv_omega

theorem byte_not_toInt (b : Byte) : (~~~b).toInt = -b.toInt - 1 := by
  have hb := b.isLt
  rw [byte_toInt_eq, byte_toInt_eq, BitVec.toNat_not]
  omega

theorem bool_not_toNat (c : Bool) : (!c).toNat = 1 - c.toNat := by cases c <;> rfl

theorem differenceWithBorrow_eq_sumWithCarry (a b : Byte) (c : Bool) :
    differenceWithBorrow a b c = sumWithCarry a (~~~b) (!c) := by
  have hb := b.isLt
  have hle := c.toNat_le
  apply BitVec.eq_of_toNat_eq
  have hdiff := differenceWithBorrow_toNat a b c
  rw [sumWithCarry_toNat, BitVec.toNat_not, bool_not_toNat]
  omega

-- The flags of an addition (R258)

/-- The formula of R258 reads the carry into bit `j` off bit `j` of the sum. -/
theorem addCarry_eq_carry {j : Nat} (hj : j < 8) (a b : Byte) (c : Bool) :
    addCarry a b (sumWithCarry a b c) j = BitVec.carry (j + 1) a b c := by
  have hsum : (sumWithCarry a b c).getLsbD j = (a.getLsbD j ^^ (b.getLsbD j ^^ BitVec.carry j a b c)) :=
    BitVec.getLsbD_add_add_bool hj a b c
  rw [addCarry, hsum, BitVec.carry_succ]
  generalize a.getLsbD j = x, b.getLsbD j = y, BitVec.carry j a b c = z
  decide +revert

theorem addCarry_iff {j : Nat} (hj : j < 8) (a b : Byte) (c : Bool) : addCarry a b (sumWithCarry a b c) j = true ↔
    2 ^ (j + 1) ≤ a.toNat % 2 ^ (j + 1) + b.toNat % 2 ^ (j + 1) + c.toNat := by
  rw [addCarry_eq_carry hj, BitVec.carry, decide_eq_true_eq, ge_iff_le]

theorem addFlags_c_iff (a b : Byte) (c : Bool) (sr : Sreg) :
    (addFlags a b (sumWithCarry a b c) sr).c = true ↔ 256 ≤ a.toNat + b.toNat + c.toNat := by
  have h := addCarry_iff (j := 7) (by decide) a b c
  rwa [Nat.mod_eq_of_lt a.isLt, Nat.mod_eq_of_lt b.isLt] at h

theorem addFlags_h_iff (a b : Byte) (c : Bool) (sr : Sreg) :
    (addFlags a b (sumWithCarry a b c) sr).h = true ↔ 16 ≤ a.toNat % 16 + b.toNat % 16 + c.toNat :=
  addCarry_iff (j := 3) (by decide) a b c

/-- V: the operands have one sign, and the sum has the other. -/
theorem addFlags_v_iff (a b : Byte) (c : Bool) (sr : Sreg) : (addFlags a b (sumWithCarry a b c) sr).v = true ↔
    a.toInt + b.toInt + c.toNat < -128 ∨ 127 < a.toInt + b.toInt + c.toNat := by
  have ha := byte_toInt_bounds a
  have hb := byte_toInt_bounds b
  have hc := c.toNat_le
  have hsum := sumWithCarry_toInt a b c
  rw [Int.bmod_def] at hsum
  have hv : (addFlags a b (sumWithCarry a b c) sr).v = true ↔
      a.toInt < 0 ∧ b.toInt < 0 ∧ ¬ (sumWithCarry a b c).toInt < 0 ∨
        ¬ a.toInt < 0 ∧ ¬ b.toInt < 0 ∧ (sumWithCarry a b c).toInt < 0 := by
    simp only [addFlags, withNVZ_v, ← byte_getLsbD_7_iff_neg, Bool.or_eq_true, Bool.and_eq_true, Bool.not_eq_true',
      Bool.not_eq_true, and_assoc]
  rw [hv]
  split at hsum <;> omega

theorem addFlags_s_iff (a b : Byte) (c : Bool) (sr : Sreg) :
    (addFlags a b (sumWithCarry a b c) sr).s = true ↔ a.toInt + b.toInt + c.toNat < 0 := by
  have ha := byte_toInt_bounds a
  have hb := byte_toInt_bounds b
  have hc := c.toNat_le
  exact sign_xor_overflow_iff (sumWithCarry_toInt a b c) (by omega) (by omega) (addFlags_v_iff a b c sr)

-- The flags of a subtraction (R259)

theorem subBorrow_eq_not_addCarry {j : Nat} (hj : j < 8) (a b R : Byte) :
    subBorrow a b R j = !addCarry a (~~~b) R j := by
  have hnot : (~~~b).getLsbD j = !b.getLsbD j := by simp [hj]
  rw [subBorrow, addCarry, hnot]
  generalize a.getLsbD j = x, b.getLsbD j = y, R.getLsbD j = z
  decide +revert

/-- The flags of a subtraction are those of the addition of the complement, but for C and H, which are inverted. -/
theorem subFlags_eq_addFlags (a b R : Byte) (sr : Sreg) : subFlags a b R sr =
    { addFlags a (~~~b) R sr with h := !(addFlags a (~~~b) R sr).h, c := !(addFlags a (~~~b) R sr).c } := by
  have hnot : (~~~b).getLsbD 7 = !b.getLsbD 7 := by simp
  unfold subFlags addFlags
  rw [subBorrow_eq_not_addCarry (by decide), subBorrow_eq_not_addCarry (by decide), hnot, Bool.not_not]

theorem subFlags_c_iff (a b : Byte) (c : Bool) (sr : Sreg) :
    (subFlags a b (differenceWithBorrow a b c) sr).c = true ↔ a.toNat < b.toNat + c.toNat := by
  have hb := b.isLt
  have hle := c.toNat_le
  rw [subFlags_eq_addFlags, differenceWithBorrow_eq_sumWithCarry, Bool.not_eq_true', ← Bool.not_eq_true,
    addFlags_c_iff, BitVec.toNat_not, bool_not_toNat]
  omega

theorem subFlags_h_iff (a b : Byte) (c : Bool) (sr : Sreg) :
    (subFlags a b (differenceWithBorrow a b c) sr).h = true ↔ a.toNat % 16 < b.toNat % 16 + c.toNat := by
  have hb := b.isLt
  have hle := c.toNat_le
  rw [subFlags_eq_addFlags, differenceWithBorrow_eq_sumWithCarry, Bool.not_eq_true', ← Bool.not_eq_true,
    addFlags_h_iff, BitVec.toNat_not, bool_not_toNat]
  omega

/-- The exact difference is the exact sum with the complement. -/
theorem toInt_add_not_eq (a b : Byte) (c : Bool) :
    a.toInt + (~~~b).toInt + (!c).toNat = a.toInt - b.toInt - c.toNat := by
  have hle := c.toNat_le
  rw [byte_not_toInt, bool_not_toNat]
  omega

theorem subFlags_v_iff (a b : Byte) (c : Bool) (sr : Sreg) :
    (subFlags a b (differenceWithBorrow a b c) sr).v = true ↔
      a.toInt - b.toInt - c.toNat < -128 ∨ 127 < a.toInt - b.toInt - c.toNat := by
  rw [subFlags_eq_addFlags, differenceWithBorrow_eq_sumWithCarry, addFlags_v_iff, toInt_add_not_eq]

theorem subFlags_s_iff (a b : Byte) (c : Bool) (sr : Sreg) :
    (subFlags a b (differenceWithBorrow a b c) sr).s = true ↔ a.toInt - b.toInt - c.toNat < 0 := by
  rw [subFlags_eq_addFlags, differenceWithBorrow_eq_sumWithCarry, addFlags_s_iff, toInt_add_not_eq]

-- ADD and ADC (R250, R251)

/-- A carry or borrow as the statements write it. -/
theorem ite_eq_toNat (c : Bool) : (if c = true then 1 else 0) = c.toNat := by cases c <;> rfl

theorem exec_add_or_adc (s : State) (d r : Reg) (withCarry : Bool) :
    let R := sumWithCarry (s.reg d) (s.reg r) (withCarry && s.sreg.c)
    exec (if withCarry then .adc d r else .add d r) s = writeResult d R (addFlags (s.reg d) (s.reg r) R s.sreg) s := by
  cases withCarry with
  | false =>
    rw [Bool.false_and, sumWithCarry_false]
    rfl
  | true =>
    rw [Bool.true_and, sumWithCarry, ← carryIn_eq_carryByte]
    rfl

/-- Settles O56: ADD is ADC with no carry in, and each flag of a sum with a carry has its lemma. -/
theorem addResults : Obligations.AddResults := by
  intro s d r withCarry
  refine (writeResult_gives (addFlags_update _ _ _) (exec_add_or_adc s d r withCarry)).imp
    fun t ⟨hreg, hsreg, hkeeps, hpc⟩ => ?_
  rw [hreg, hsreg, ite_eq_toNat]
  exact ⟨sumWithCarry_toNat _ _ _, addFlags_c_iff _ _ _ _, addFlags_h_iff _ _ _ _, addFlags_v_iff _ _ _ _,
    addFlags_s_iff _ _ _ _, signFlags_of_sreg hsreg, hkeeps.mono_flags (by decide), hpc⟩

-- SUB and CPI (R252, R254)

/-- How `Obligations.SubCpiResults` says the subtraction of `b` from Rd ends, where the registers `ds` are written. -/
def EndsSub (s : State) (d : Reg) (b : Byte) (ds : List Reg) (t : State) : Prop :=
  (t.sreg.c = true ↔ (s.reg d).toNat < b.toNat) ∧ (t.sreg.h = true ↔ (s.reg d).toNat % 16 < b.toNat % 16) ∧
    (t.sreg.v = true ↔ (s.reg d).toInt - b.toInt < -128 ∨ 127 < (s.reg d).toInt - b.toInt) ∧
    (t.sreg.s = true ↔ (s.reg d).toInt < b.toInt) ∧ (t.sreg.z = true ↔ s.reg d = b) ∧
    t.sreg.s = (t.sreg.n ^^ t.sreg.v) ∧ Keeps ds [.h, .s, .v, .n, .z, .c] s t ∧ t.pc = s.pc + 1

/-- The flags of a difference without a borrow, whatever else the instruction writes. -/
theorem endsSub_of_sreg {s t : State} {d : Reg} {b : Byte} {ds : List Reg}
    (hsreg : t.sreg = subFlags (s.reg d) b (s.reg d - b) s.sreg)
    (hkeeps : Keeps ds [.n, .v, .z, .s, .c, .h] s t) (hpc : t.pc = s.pc + 1) : EndsSub s d b ds t := by
  have hv := subFlags_v_iff (s.reg d) b false s.sreg
  have hs := subFlags_s_iff (s.reg d) b false s.sreg
  rw [Bool.toNat_false, Nat.cast_zero, sub_zero] at hv hs
  rw [sub_neg] at hs
  have hz : (s.reg d - b == 0) = true ↔ s.reg d = b := beq_iff_eq.trans sub_eq_zero
  rw [← differenceWithBorrow_false] at hsreg hz
  unfold EndsSub
  rw [hsreg]
  exact ⟨subFlags_c_iff _ _ _ _, subFlags_h_iff _ _ _ _, hv, hs, hz, rfl,
    hkeeps.mono_flags (by decide), hpc⟩

/-- An instruction that writes flags alone. -/
theorem setSreg_gives {i : Instr} {s : State} {fs : List Flag} {F : Sreg → Sreg} (hF : FlagUpdate fs F)
    (hi : exec i s = .next (s.setSreg (F s.sreg)).advance) :
    Gives i s fun t => t.sreg = F s.sreg ∧ Keeps [] fs s t ∧ t.pc = s.pc + 1 :=
  ⟨_, hi, rfl, ⟨fun _ _ => rfl, hF.keeps s.sreg, rfl, ⟨rfl, rfl, rfl, rfl, rfl, rfl, rfl⟩, fun _ => rfl,
    fun _ => rfl⟩, rfl⟩

/-- Settles O57: SUB writes the difference and its flags, CPI the flags alone. -/
theorem subCpiResults : Obligations.SubCpiResults := by
  intro s d r K
  constructor
  · refine (writeResult_gives (subFlags_update (s.reg d) (s.reg r) (s.reg d - s.reg r)) rfl).imp
      fun t ⟨hreg, hsreg, hkeeps, hpc⟩ => ⟨?_, endsSub_of_sreg hsreg hkeeps hpc⟩
    rw [hreg]
    bv_omega
  · exact (setSreg_gives (subFlags_update (s.reg d) K (s.reg d - K)) rfl).imp
      fun t ⟨hsreg, hkeeps, hpc⟩ => endsSub_of_sreg hsreg hkeeps hpc

-- SBC (R253)

theorem exec_sbc (s : State) (d r : Reg) :
    let R := differenceWithBorrow (s.reg d) (s.reg r) s.sreg.c
    exec (.sbc d r) s = writeResult d R (sbcFlags (s.reg d) (s.reg r) R s.sreg) s := by
  rw [differenceWithBorrow, ← carryIn_eq_carryByte]
  rfl

/-- Settles O58: all flags but Z are those of the difference with a borrow. -/
theorem sbcResult : Obligations.SbcResult := by
  intro s d r
  refine (writeResult_gives (sbcFlags_update _ _ _ s.sreg.z) (exec_sbc s d r)).imp
    fun t ⟨hreg, hsreg, hkeeps, hpc⟩ => ?_
  have hz (R : Byte) : (R == 0 && s.sreg.z) = true ↔ R = 0 ∧ s.sreg.z = true := by
    rw [Bool.and_eq_true, beq_iff_eq]
  have hc : (if s.sreg.c = true then (1 : Int) else 0) = s.sreg.c.toNat := by cases s.sreg.c <;> rfl
  rw [hreg, hsreg, hc]
  exact ⟨differenceWithBorrow_toNat _ _ _, mod_cast subFlags_c_iff _ _ _ s.sreg, mod_cast subFlags_h_iff _ _ _ s.sreg,
    subFlags_v_iff _ _ _ s.sreg, subFlags_s_iff _ _ _ s.sreg, rfl, hz _, hkeeps.mono_flags (by decide), hpc⟩

-- 16-bit arithmetic (R250 to R253)

/-- A register that an instruction may not write reads as before. -/
theorem Keeps.reg_of_ne {d j : Reg} {fs : List Flag} {s t : State} (h : Keeps [d] fs s t) (hj : j ≠ d) :
    t.reg j = s.reg j :=
  h.1 j (mt List.mem_singleton.1 hj)

/-- ADD leaves the carry out of the low bytes for ADC. -/
theorem addAdc_gives {lo hi a b : Reg} (s : State) (hhi : hi ≠ lo) (hb : b ≠ lo) :
    let x := 256 * (s.reg hi).toNat + (s.reg lo).toNat
    let y := 256 * (s.reg b).toNat + (s.reg a).toNat
    Gives (.add lo a) s fun t => Gives (.adc hi b) t fun u =>
      256 * (u.reg hi).toNat + (u.reg lo).toNat = (x + y) % 65536 ∧ (u.sreg.c = true ↔ 65536 ≤ x + y) := by
  obtain ⟨t, hadd, hlow, hcarry, -, -, -, -, hkeeps, -⟩ := addResults s lo a false
  obtain ⟨u, hadc, hhigh, hout, -, -, -, -, hkeeps', -⟩ := addResults t hi b true
  refine ⟨t, hadd, u, hadc, ?_⟩
  rw [Bool.false_and, if_neg Bool.false_ne_true] at hlow hcarry
  rw [Bool.true_and, if_congr hcarry rfl rfl, hkeeps.reg_of_ne hhi, hkeeps.reg_of_ne hb] at hhigh hout
  rw [hkeeps'.reg_of_ne hhi.symm, hout]
  have hlo_lt := (s.reg lo).isLt
  have ha_lt := (s.reg a).isLt
  split_ifs at hhigh ⊢ <;> omega

/-- SUB leaves the borrow out of the low bytes for SBC, and in Z whether they are equal. -/
theorem subSbc_gives {lo hi a b : Reg} (s : State) (hhi : hi ≠ lo) (hb : b ≠ lo) :
    let x := 256 * (s.reg hi).toNat + (s.reg lo).toNat
    let y := 256 * (s.reg b).toNat + (s.reg a).toNat
    Gives (.sub lo a) s fun t => Gives (.sbc hi b) t fun u =>
      256 * (u.reg hi).toNat + (u.reg lo).toNat = (x + 65536 - y) % 65536 ∧ (u.sreg.c = true ↔ x < y) ∧
        (u.sreg.z = true ↔ x = y) := by
  obtain ⟨⟨t, hsub, hlow, hborrow, -, -, -, hequal, -, hkeeps, -⟩, -⟩ := subCpiResults s lo a 0
  obtain ⟨u, hsbc, hhigh, hout, -, -, -, -, hzero, hkeeps', -⟩ := sbcResult t hi b
  refine ⟨t, hsub, u, hsbc, ?_⟩
  rw [if_congr hborrow rfl rfl, hkeeps.reg_of_ne hhi, hkeeps.reg_of_ne hb] at hhigh hout
  rw [← byte_toNat_eq_zero_iff, hequal, ← BitVec.toNat_inj] at hzero
  rw [hkeeps'.reg_of_ne hhi.symm, hout, hzero]
  have hlo_lt := (s.reg lo).isLt
  have ha_lt := (s.reg a).isLt
  have hhigh_lt := (s.reg hi).isLt
  have hb_lt := (s.reg b).isLt
  split_ifs at hhigh ⊢ <;> omega

/-- Settles O59: two instructions each, joined by the carry or borrow between the bytes. -/
theorem sixteenBitArithmetic : Obligations.SixteenBitArithmetic :=
  fun s _ _ _ _ hhi hb => ⟨addAdc_gives s hhi hb, subSbc_gives s hhi hb⟩

end Sys2Proof.Machine
end

section
/-! SUPPORT. The statements about reset and about words of the test vectors (ResetValues, ResetHasInvariant,
SampleWordsDecode), and the two rules of 43_data_transfer.md on program memory beyond LPM (ElpmResults, SpmResults).
ELPM and SPM are one access each at the byte address RAMPZ:Z, and the update of a pointer. -/

namespace Sys2Proof.Machine

-- Reset (R331, R37)

theorem reset_reg (j : Reg) : State.reset.reg j = 0 := Vector.getElem_replicate j.isLt

theorem reset_sreg_get (f : Flag) : State.reset.sreg.get f = false := by cases f <;> rfl

/-- Settles O9: both memories of the reset state are empty, and the rest is read off its fields. -/
theorem resetValues : Obligations.ResetValues := by
  have hsp : State.reset.sp.toNat = State.reset.dev.ramend := rfl
  exact ⟨rfl, reset_sreg_get, hsp, reset_reg, rfl, rfl, rfl, rfl, rfl, fun _ => rfl, fun _ => rfl⟩

/-- What an empty memory lists is no constraint; what remains is the parameters and SP. -/
theorem reset_sound : State.reset.Sound where
  dev := by decide
  memWf := reset_memories_wf.1
  memSram := rfl
  progWf := reset_memories_wf.2
  progExists := rfl
  sp := by decide

/-- Settles O10: the reset state is sound, and its pc is 0. -/
theorem resetHasInvariant : Obligations.ResetHasInvariant :=
  (inv_iff_sound State.reset).2 ⟨reset_sound, Nat.zero_le _⟩

-- Words of 95_test_vectors.md and the instruction pages (R82, R83)

/-- A word decodes to the canonical instruction that it is the encoding of. -/
theorem decode_of_encode_eq {w : Word} {i : Instr} (hword : encode i = w) (hcan : i.canonical = i)
    (hwf : i.WellFormed = true) : decode w = .ok i :=
  hword ▸ decode_encode_of_canonical hcan hwf

/-- Settles O4: each word is the encoding of its instruction, which the decoder reads back. -/
theorem sampleWordsDecode : Obligations.SampleWordsDecode := by
  refine ⟨?_, ?_, ?_, ?_, ?_, ?_, ?_, ?_, ?_, ?_, ?_, ?_⟩ <;> exact decode_of_encode_eq rfl rfl rfl

-- The byte address of ELPM and SPM (R193, R199)

theorem addrZ_eq (s : State) : addrZ s = (if s.dev.hasRamp then 65536 * s.rampz.toNat else 0) + s.ptrZ.toNat := rfl

theorem addrZ_of_hasRamp {s : State} (h : s.dev.hasRamp = true) : addrZ s = 65536 * s.rampz.toNat + s.ptrZ.toNat := by
  rw [addrZ_eq, if_pos h]

-- ELPM (R193 to R195)

section
variable {s : State} {d : Reg} {i : Instr} {v : Byte}

theorem exec_elpmZ_eq_loadProgByte (hoffers : Device.offersElpm s.dev = true) (d : Reg) :
    exec (.elpmZ d) s = loadProgByte d (addrZ s) id s :=
  congrArg (requires · _) hoffers

/-- ELPM without operands is ELPM R0,Z (R193, R194). -/
theorem exec_elpm_eq_loadProgByte (hoffers : Device.offersElpm s.dev = true) :
    exec .elpm s = loadProgByte 0 (addrZ s) id s :=
  exec_elpmZ_eq_loadProgByte hoffers 0

theorem exec_elpmZInc_eq_loadProgByte (hoffers : Device.offersElpm s.dev = true) (hd : isHalfOfZ d = false) :
    exec (.elpmZInc d) s = loadProgByte d (addrZ s) (·.setWideZ (ptrInc s.dev (addrZ s))) s :=
  (congrArg (requires · _) hoffers).trans (congrArg (unlessConflict · _) hd)

/-- The two stops of a program byte: its word does not exist, or nothing has placed it. -/
theorem progByte_of_stop {a : Nat} {e : Fault} (h : (s.dev.flashend < a / 2 ∧ e = .progReadOutOfRange) ∨
    (a / 2 ≤ s.dev.flashend ∧ Memory.read s.prog (a / 2) = none ∧ e = .unwrittenRead)) :
    s.progByte a = .fault e := by
  obtain ⟨hlt, rfl⟩ | ⟨hle, hnone, rfl⟩ := h
  · exact progByte_of_flashend_lt hlt
  · exact progByte_of_none hle hnone

/-- A load from program memory that moves no pointer. -/
theorem loadProg_gives {a : Nat} (hv : s.progByte a = .next v) (hi : exec i s = loadProgByte d a id s) :
    Gives i s fun t => t.reg d = v ∧ Keeps [d] [] s t ∧ t.pc = s.pc + 1 :=
  ⟨_, hi.trans (loadProgByte_of_next hv d id), reg_setReg_self s d v, keeps_setReg s d v, rfl⟩

/-- A load from program memory that then moves RAMPZ:Z to `b`. -/
theorem loadProgWideZ_gives {a b : Nat} (hv : s.progByte a = .next v) (hd : isHalfOfZ d = false)
    (hi : exec i s = loadProgByte d a (·.setWideZ b) s) (hlt : b < Device.ptrSpan s.dev) :
    Gives i s fun t => t.reg d = v ∧ addrZ t = b ∧ t.dev = s.dev ∧ Keeps [d, 30, 31] [] s (t.setRampz s.rampz) ∧
      t.pc = s.pc + 1 := by
  refine ⟨_, hi.trans (loadProgByte_of_next hv d _), ?_, ?_, rfl, keeps_setReg_setWideZ s d v b, rfl⟩
  · rw [reg_advance, reg_setWideZ hd, reg_setReg_self]
  · exact (addrZ_advance _).trans (addrZ_setWideZ hlt)

end

/-- Settles O49, by what the program byte at RAMPZ:Z answers. -/
theorem elpmResults : Obligations.ElpmResults := by
  intro s d hramp hcore
  have hoffers := offersElpm_iff.2 ⟨hramp, hcore⟩
  have hr0 := exec_elpm_eq_loadProgByte hoffers
  have hz := exec_elpmZ_eq_loadProgByte hoffers
  have hinc (hd : isHalfOfZ d = false) := exec_elpmZInc_eq_loadProgByte hoffers hd
  rw [← addrZ_of_hasRamp hramp]
  refine ⟨fun e he => ?_, fun w hle hw => ?_⟩
  · have hstop := progByte_of_stop he
    exact ⟨(loadProg_stopsAs hr0).fault hstop, (loadProg_stopsAs (hz d)).fault hstop,
      fun hd => (loadProg_stopsAs (hinc hd)).fault hstop⟩
  have hv := progByte_of_some hle hw
  rw [← byteOfWord_toNat]
  refine ⟨?_, ?_, fun hd => ?_⟩
  · exact (loadProg_gives hv hr0).imp fun t ⟨hreg, hrest⟩ => ⟨congrArg BitVec.toNat hreg, hrest⟩
  · exact (loadProg_gives hv (hz d)).imp fun t ⟨hreg, hrest⟩ => ⟨congrArg BitVec.toNat hreg, hrest⟩
  · refine (loadProgWideZ_gives hv hd (hinc hd) (ptrInc_lt _ _)).imp ?_
    rintro t ⟨hreg, haddr, hdev, ⟨hregs, hflags, hsp, ⟨hx, hy, -, hrampd, heind, hlog, -⟩, hmem⟩, hpc⟩
    refine ⟨congrArg BitVec.toNat hreg, ?_, hregs, hflags, hsp, hx, hy, hrampd, heind, hlog, hdev, hmem, hpc⟩
    rw [← addrZ_of_hasRamp (hdev ▸ hramp), haddr, ptrInc, ptrSpan_of_hasRamp hramp]

-- SPM (R199, R200)

theorem offersSpm_iff {dev : Device} : Device.offersSpm dev = true ↔ dev.hasSpm = true ∧ dev.core ≠ .avrrc := by
  simp only [Device.offersSpm, Bool.and_eq_true, bne_iff_ne]

/-- How the statement says SPM ends that wrote the word of byte address `a`: beyond that word and the registers, pc
alone has changed. -/
def EndsSpm (s : State) (a : Nat) (t : State) : Prop :=
  (∃ w, Memory.read t.prog (a / 2) = some w ∧ w.toNat = 256 * (s.reg 1).toNat + (s.reg 0).toNat) ∧
  (∀ b, b ≠ a / 2 → Memory.read t.prog b = Memory.read s.prog b) ∧
  (∀ b, Memory.read t.mem b = Memory.read s.mem b) ∧ SameFlagsBut [] s t ∧ t.sp = s.sp ∧ SameSpecial s t ∧
  t.pc = s.pc + 1

section
variable {s : State}

theorem exec_spm_eq_storeProgWord (hoffers : Device.offersSpm s.dev = true) : exec .spm s = storeProgWord id s :=
  congrArg (requires · _) hoffers

theorem exec_spmZInc_eq_storeProgWord (hoffers : Device.offersSpm s.dev = true) :
    exec .spmZInc s = storeProgWord (·.setPtrZ (s.ptrZ + 2)) s :=
  congrArg (requires · _) hoffers

theorem storeProgWord_of_le (h : addrZ s / 2 ≤ s.dev.flashend) (upd : State → State) : storeProgWord upd s =
    .next (upd { s with prog := Memory.write s.prog (addrZ s / 2) (s.pair 1 0) }).advance := by
  rw [storeProgWord, State.progWrite, if_neg (Nat.not_lt.2 h), andThen_next]

theorem storeProgWord_of_flashend_lt (h : s.dev.flashend < addrZ s / 2) (upd : State → State) :
    storeProgWord upd s = .fault .progReadOutOfRange := by
  rw [storeProgWord, State.progWrite, if_pos h, andThen_fault]

/-- The word is written, whatever the pointer update puts in the registers. -/
theorem endsSpm_withRegs (s : State) (rs : Vector Byte 32) (a : Nat) : EndsSpm s a
    ({ s with regs := rs, prog := Memory.write s.prog (a / 2) (s.pair 1 0) } : State).advance :=
  ⟨⟨_, memory_read_write_self _ _ _, pair_toNat s 1 0⟩, fun _ hb => memory_read_write_other hb _ _, fun _ => rfl,
    fun _ _ => rfl, rfl, ⟨rfl, rfl, rfl, rfl, rfl, rfl, rfl⟩, rfl⟩

end

/-- Settles O50, by whether the word exists. -/
theorem spmResults : Obligations.SpmResults := by
  intro s hspm hcore
  have hoffers := offersSpm_iff.2 ⟨hspm, hcore⟩
  have hi := exec_spm_eq_storeProgWord hoffers
  have hinc := exec_spmZInc_eq_storeProgWord hoffers
  rw [← addrZ_eq]
  refine ⟨fun hle => ⟨?_, ?_⟩, fun hlt => ⟨?_, ?_⟩⟩
  · exact ⟨_, hi.trans (storeProgWord_of_le hle _), endsSpm_withRegs s s.regs (addrZ s), fun _ _ => rfl⟩
  · refine ⟨_, hinc.trans (storeProgWord_of_le hle _), endsSpm_withRegs s _ (addrZ s), fun j hj => ?_, ?_⟩
    · exact reg_setPtrZ (not_isHalfOfZ hj) _ _
    · exact (congrArg BitVec.toNat (ptrZ_setPtrZ _ (s.ptrZ + 2))).trans (BitVec.toNat_add _ _)
  · exact hi.trans (storeProgWord_of_flashend_lt hlt _)
  · exact hinc.trans (storeProgWord_of_flashend_lt hlt _)

end Sys2Proof.Machine
end
